-- ==== Sys2Proof/Word.lean ====
section
/-!
DEFINITION. The word sizes of RISC-E: 32-bit registers and memory cells (00_scope.md R8, 20_memory.md R51), 18-bit
addresses (20_memory.md R50) and the 8-bit codes of the keyboard and of the character output (10_state.md R36).
-/

namespace Sys2Proof

/-- A register value, an instruction word or the content of one memory cell: 32 bits (R8 `XLEN`, `ILEN`, `CELL`). -/
abbrev Word := BitVec 32

/-- A memory address or a value of the program counter: 18 bits (R8 `ABITS`, R28). -/
abbrev Addr := BitVec 18

/-- A key code or a character: 8 bits (R36 `KBD_CHAR`, `CHAR_OUT`). -/
abbrev Byte := BitVec 8

end Sys2Proof
end

