-- ==== Sys2Proof/Config.lean ====
section
/-!
DEFINITION. The open parameters of a run (00_scope.md R9, 92_eei_decisions.md "Open parameters, collected") and the free
values, the `draw` of the spec's pseudocode (R12): values the spec leaves unspecified. A free value is an opaque constant
with no body, applied to the counter `State.draws`, so nothing in Lean can evaluate it or prove a value of it.
-/

namespace Sys2Proof

/-- `size` consecutive addresses from `first`, modulo 2^18. -/
structure TextSpan where
  first : Addr
  size : Nat
  deriving DecidableEq, Repr

/-- The open parameters that an instruction or the end of a run depends on (R9). No step changes them. `RESET_PC`,
`LOAD_BASE` and `MEM_INIT` act only before the run: they are arguments of `State.boot` and `State.bootProgram`. -/
structure Config where
  /-- `STOP_ADDR` (R258, D22); `none` when no program has been loaded, so no address ends the run (log 5). -/
  stopAddr : Option Addr
  /-- `TEXT_RANGE` (R66, D19): the cells that hold program text, into which a store is refused. -/
  textRange : List TextSpan
  /-- `BR_CMP_SIGNED` (R199, D8). -/
  brCmpSigned : Bool
  /-- `MULT_SIGNED` (R125, D9). -/
  multSigned : Bool
  /-- `POP_ADDR_OFFSET` (R174, D10). -/
  popAddrOffset : Fin 2
  deriving DecidableEq, Repr

/-- The spec's defaults, with no program loaded. -/
def Config.default : Config :=
  { stopAddr := none, textRange := [], brCmpSigned := true, multSigned := true, popAddrOffset := 1 }

/-- The spec's defaults for a program of `n` instructions at `base`: `STOP_ADDR` is the address after the last one and
`TEXT_RANGE` is the program (R9, D19, D22). -/
def Config.forProgram (base : Addr) (n : Nat) : Config :=
  { Config.default with stopAddr := some (base + BitVec.ofNat 18 n), textRange := [⟨base, n⟩] }

/-- The default of `LOAD_BASE` and of `RESET_PC` (R9, D4). -/
def Config.defaultLoadBase : Addr := 0

/-- Free value (log 9): what a keyboard read leaves unspecified, all 32 bits when no key waits, bits 31:8 when one does
(R219, U1, U2). DESIGN CHOICE: one draw for each keyboard read, numbered by `State.draws`. -/
opaque Config.kbdDraw : Nat → Word

/-- Free value (log 9): `VID_READY` after an accepted character (R221, U4). -/
opaque Config.vidReadyDraw : Nat → Bool

/-- Free value (log 9): `PIX_READY` after an accepted pixel word (R225, U4). -/
opaque Config.pixReadyDraw : Nat → Bool

end Sys2Proof
end

