-- ==== Sys2Proof/Syntax.lean ====
section
/-!
DEFINITION. The registers as an instruction names them, the 31 instructions of the opcode map (30_encoding.md R95), and
the reasons a word is reserved (R96 to R98). Don't-care fields are no part of an instruction (R92).
-/

namespace Sys2Proof

/-- A register an instruction names (10_state.md R20 to R27), one constructor for each behaviour the spec gives:
register 0, the 28 general registers, the I/O port 29, the stack pointer 30 and the return-address register 31. -/
inductive Reg where
  /-- Register 0: reads 0, discards writes (R21). -/
  | zero
  /-- Register `i + 1`, one of R1 to R28 (R22). -/
  | gpr (i : Fin 28)
  /-- Register 29: reads the keyboard, writes the character channel (R23). -/
  | port
  /-- Register 30, the stack pointer of `push` and `pop` (R26). -/
  | sp
  /-- Register 31, which `jal` writes (R27). -/
  | ra
  deriving DecidableEq, Repr

/-- Why a 32-bit word is a reserved encoding, with no meaning. -/
inductive Reserved where
  /-- No instruction has this `op` and `mode` (R96). -/
  | undefinedPair (op mode : BitVec 4)
  /-- `nop`, `push`, `pop` or `jal` with another value in a field the table prints as a constant (R97). -/
  | fixedField (op mode : BitVec 4)
  /-- `inc` or `dec` whose SrcA field differs from its Destination field (R98). -/
  | srcNotDest (mode : BitVec 4)
  deriving DecidableEq, Repr

/-- The 31 instructions, in the order of the opcode map (R95), with their operands in assembly order (R105).
`inc` and `dec` carry both fields that the table prints as `ddddd`; `Instr.wellFormed` says they agree. -/
inductive Instr where
  | add (fd fa fb : Reg)
  | sub (fd fa fb : Reg)
  | inc (fd fa : Reg)
  | dec (fd fa : Reg)
  | mult (fd fa fb : Reg)
  | and (fd fa fb : Reg)
  | or (fd fa fb : Reg)
  | xor (fd fa fb : Reg)
  | not (fd fa : Reg)
  | sra (fd fa fb : Reg)
  | srl (fd fa fb : Reg)
  | sl (fd fa fb : Reg)
  | rol (fd fa fb : Reg)
  | ror (fd fa fb : Reg)
  | nop
  | lli (fd : Reg) (imm16 : BitVec 16)
  | lui (fd : Reg) (imm16 : BitVec 16)
  | lw (fd fa : Reg) (off9 : BitVec 9)
  | sw (fb fa : Reg) (off9 : BitVec 9)
  | svga (fb : Reg)
  | push (fb : Reg)
  | pop (fd : Reg)
  | jr (fa : Reg)
  | jal (addr18 : Addr)
  | brgt (fa fb : Reg) (off14 : BitVec 14)
  | brlt (fa fb : Reg) (off14 : BitVec 14)
  | breq (fa fb : Reg) (off14 : BitVec 14)
  | br (off14 : BitVec 14)
  | brchar (off14 : BitVec 14)
  | brvid (off14 : BitVec 14)
  | brpix (off14 : BitVec 14)
  deriving DecidableEq, Repr

/-- The mnemonic of R95, as the opcode table spells it. -/
def Instr.mnemonic : Instr → String
  | .add _ _ _ => "add"
  | .sub _ _ _ => "sub"
  | .inc _ _ => "inc"
  | .dec _ _ => "dec"
  | .mult _ _ _ => "mult"
  | .and _ _ _ => "and"
  | .or _ _ _ => "or"
  | .xor _ _ _ => "xor"
  | .not _ _ => "not"
  | .sra _ _ _ => "sra"
  | .srl _ _ _ => "srl"
  | .sl _ _ _ => "sl"
  | .rol _ _ _ => "rol"
  | .ror _ _ _ => "ror"
  | .nop => "nop"
  | .lli _ _ => "lli"
  | .lui _ _ => "lui"
  | .lw _ _ _ => "lw"
  | .sw _ _ _ => "sw"
  | .svga _ => "svga"
  | .push _ => "push"
  | .pop _ => "pop"
  | .jr _ => "jr"
  | .jal _ => "jal"
  | .brgt _ _ _ => "brgt"
  | .brlt _ _ _ => "brlt"
  | .breq _ _ _ => "breq"
  | .br _ => "br"
  | .brchar _ => "brchar"
  | .brvid _ => "brvid"
  | .brpix _ => "brpix"

end Sys2Proof
end

