-- ==== Sys2Proof/Machine/State.lean ====
section
/-!
DEFINITION. The whole state of a RISC-E system (10_state.md), why the model stops, and the state after reset (R38).
-/

namespace Sys2Proof.Machine

/-- A key of the keyboard (60_exceptions.md R220). -/
inductive Key where
  /-- A key with the ASCII code `code`. DESIGN CHOICE (log 29): any 8-bit value, 00h and 80h to FFh included, because the
  spec gives no range of the ASCII codes. -/
  | ascii (code : Byte)
  | up
  | down
  | left
  | right
  | returnKey
  | enter
  /-- A key with no ASCII code and no entry in the table of nonstandard codes. -/
  | uncoded
  deriving DecidableEq, Repr

/-- One step of the environment, at an instruction boundary (R216). -/
inductive DeviceEvent where
  /-- A key is pressed (R217). `zeroRaises` is read only for a key whose code is 00h: whether it sets `KBD_READY`, which
  the source does not say and the environment decides (U20, log 10). -/
  | keyPressed (k : Key) (zeroRaises : Bool)
  /-- The VGA controller can take a character again (R224). -/
  | videoDrained
  /-- The VGA controller can take a pixel word again (R227). -/
  | pixelsDrained
  deriving DecidableEq, Repr

/-- One memory cell that holds a value: its address and its 32 bits (R51). -/
abbrev Cell := Nat × Word

/-- The cells that hold a value, by strictly rising address (`Memory.wf`). A cell that is not listed holds no value (R55,
log 3). -/
abbrev Memory := List Cell

/-- Everything the spec gives the machine (10_state.md R20 to R38), the open parameters of the run, and the model's own
two fields `events` and `draws`. Registers 0 and 29 hold nothing (R21, R23), so no field stands for them. -/
structure State where
  /-- R1 to R28: register `n` at index `n - 1` (R22). -/
  gpr : Vector Word 28
  /-- Register 30 (R26). -/
  sp : Word
  /-- Register 31 (R27). -/
  ra : Word
  /-- The program counter (R28). -/
  pc : Addr
  /-- The one memory, of 2^18 cells (R34). -/
  mem : Memory
  /-- `KBD_READY` (R36): a key waits to be read. -/
  kbdReady : Bool
  /-- `KBD_CHAR` (R36): the last key pressed. -/
  kbdChar : Byte
  /-- `VID_READY` (R36): the character channel can take a character. -/
  vidReady : Bool
  /-- `PIX_READY` (R36): the pixel channel can take a pixel word. -/
  pixReady : Bool
  /-- `CHAR_OUT` (R36): the characters accepted, oldest first. -/
  charOut : List Byte
  /-- `PIX_OUT` (R36): the pixel words accepted, oldest first. -/
  pixOut : List Word
  /-- The open parameters of the run (R9); no step changes them. -/
  cfg : Config
  /-- The model's own (log 8): what the environment does at the coming instruction boundaries, the next one first. An
  exhausted list means that no device does anything more. -/
  events : List (List DeviceEvent)
  /-- The model's own (log 9): how many free values this run has used. -/
  draws : Nat
  deriving DecidableEq, Repr

/-- Why a step has no next state. None of these is an event of the hardware, which has no exception (R210): each is the
model's own stop, so each is SAFE (a claim that holds of hardware may become unprovable, no false claim provable). -/
inductive Fault where
  /-- The word fetched is a reserved encoding (R96, R97, R98). Raised by the step, and by `inc` and `dec` on a term that
  is not well formed. Safe. -/
  | reservedEncoding (why : Reserved)
  /-- A cell that nothing has given a value is read (R55). Raised by the fetch, `lw` and `pop`. Safe. -/
  | cellWithoutValue (addr : Addr)
  /-- `svga` while `PIX_READY` is false (R225). Raised by `svga`. Safe. -/
  | pixelChannelNotReady
  deriving DecidableEq, Repr

/-- Why the model refuses a step: a case the spec leaves without meaning and tells from the instruction and the state
alone (93_implementation_defined.md `refuse`). Each is SAFE. -/
inductive Refusal where
  /-- The instruction has no meaning in this model yet. Raised by an arm of `exec`. Safe. -/
  | notModelled (mnemonic : String)
  /-- A store into `TEXT_RANGE` (R66). Raised by `sw` and `push`. Safe. -/
  | storeIntoText (addr : Addr)
  /-- `pop $30`, which writes register 30 twice (R173). Raised by `pop`. Safe. -/
  | popIntoStackPointer
  deriving DecidableEq, Repr

/-- The machine before its first instruction: `pc` at `RESET_PC`, memory holding `MEM_INIT` (R38, R251). Registers and
device flags, of which the spec gives no reset value, hold the values of log 1 and log 2 (DESIGN CHOICE, unsafe). -/
def State.boot (resetPc : Addr) (cfg : Config) (memInit : Memory) : State :=
  { gpr := Vector.replicate 28 0
    sp := 0
    ra := 0
    pc := resetPc
    mem := memInit
    kbdReady := false
    kbdChar := 0
    vidReady := true
    pixReady := true
    charOut := []
    pixOut := []
    cfg := cfg
    events := []
    draws := 0 }

/-- The machine right after reset, with every open parameter at the spec's default and no program loaded (log 5, log 6). -/
def State.reset : State := State.boot Config.defaultLoadBase Config.default []

end Sys2Proof.Machine
end

