-- ==== Sys2Proof/Machine/Devices.lean ====
section
/-!
DEFINITION. The keyboard and the VGA controller, as far as a program can observe them (60_exceptions.md R216 to R229):
what a read and a write of register 29 and what `svga` do, and what the devices do at an instruction boundary.
-/

namespace Sys2Proof.Machine

/-! ### The keyboard -/

/-- The code of a key (R220). -/
def keyCode : Key → Byte
  | .ascii c => c
  | .up => 0x38
  | .down => 0x32
  | .left => 0x34
  | .right => 0x36
  | .returnKey => 0x0A
  | .enter => 0x0A
  | .uncoded => 0x00

/-- The value `KbdRead()` returns (R219): the key in bits 7:0 when one waits; every bit the source does not state is free
(log 9, log 19). -/
def State.kbdValue (s : State) : Word :=
  if s.kbdReady then (Config.kbdDraw s.draws).extractLsb' 8 24 ++ s.kbdChar else Config.kbdDraw s.draws

/-- What `KbdRead()` does (R219): no key waits any more, and one free value is used. -/
def State.kbdConsume (s : State) : State := { s with kbdReady := false, draws := s.draws + 1 }

/-! ### The character and the pixel channel -/

/-- `CharWrite(v)` (R221): a ready channel accepts bits 7:0, and whether it stays ready is free (D16, log 9); otherwise the
request is ignored. -/
def State.charWrite (s : State) (v : Word) : State :=
  if s.vidReady then
    { s with
      charOut := s.charOut ++ [v.extractLsb' 0 8]
      vidReady := Config.vidReadyDraw s.draws
      draws := s.draws + 1 }
  else s

/-- `PixWrite(w)` (R225): a ready channel accepts the word, and whether it stays ready is free (D17, log 9); otherwise the
spec gives no meaning and the model faults (log 13). -/
def State.pixWrite (s : State) (w : Word) : Host.Outcome State Fault Refusal :=
  if s.pixReady then
    .next
      { s with
        pixOut := s.pixOut ++ [w]
        pixReady := Config.pixReadyDraw s.draws
        draws := s.draws + 1 }
  else .fault .pixelChannelNotReady

/-! ### The layout of a pixel word (R228); the model only records the word -/

def pixColour (w : Word) : Byte := w.extractLsb' 0 8

def pixLocation (w : Word) : BitVec 20 := w.extractLsb' 8 20

/-- Red, green and blue within the colour, in the order of the source's list (the spec's decision D27, log 27). -/
def pixRed (w : Word) : BitVec 3 := w.extractLsb' 5 3

def pixGreen (w : Word) : BitVec 2 := w.extractLsb' 3 2

def pixBlue (w : Word) : BitVec 3 := w.extractLsb' 0 3

/-! ### The environment's steps -/

/-- One step of a device, at an instruction boundary: a key press (R217), the character channel ready again (R224), the
pixel channel ready again (R227). No device clears a readiness (D18, log 20). -/
def State.deliver (s : State) : DeviceEvent → State
  | .keyPressed k zeroRaises =>
    { s with
      kbdChar := keyCode k
      kbdReady := if keyCode k = 0 then s.kbdReady || zeroRaises else true }
  | .videoDrained => { s with vidReady := true }
  | .pixelsDrained => { s with pixReady := true }

/-- The device steps at this boundary, in order, before the instruction (R216, log 8). -/
def State.boundary (s : State) : State :=
  match s.events with
  | [] => s
  | now :: later => now.foldl State.deliver { s with events := later }

end Sys2Proof.Machine
end

