-- ==== Sys2Proof/Machine/Ops.lean ====
section
/-!
DEFINITION. The operations every family shares: memory cells (20_memory.md R50 to R56), stores and the program text
(R66), and the program counter (10_state.md R28 to R30). RISC-E takes no exception and returns from none (60_exceptions.md
R210, R215), so there is no operation for either.
-/

namespace Sys2Proof.Machine

/-- `trunc18` (R12, R54): the low 18 bits of a computed address select the cell. -/
def trunc18 (v : Word) : Addr := v.extractLsb' 0 18

/-! ### Memory as data -/

/-- The value of a cell, or `none` for a cell that holds none (R55). -/
def Memory.read : Memory → Nat → Option Word
  | [], _ => none
  | (k, v) :: m, a => if k = a then some v else Memory.read m a

/-- Cell `a` holds `v`; every other cell keeps its value (R56). -/
def Memory.write : Memory → Nat → Word → Memory
  | [], a, v => [(a, v)]
  | (k, u) :: m, a, v =>
    if a < k then (a, v) :: (k, u) :: m
    else if a = k then (a, v) :: m
    else (k, u) :: Memory.write m a v

/-- Addresses rise strictly, from `lo` on, and stay below 2^18. -/
def Memory.risingFrom : Nat → Memory → Bool
  | _, [] => true
  | lo, (k, _) :: m => decide (lo ≤ k) && decide (k < 2 ^ 18) && Memory.risingFrom (k + 1) m

/-- The canonical form: strictly rising addresses of the 2^18 cells (R50). Every listed cell holds a value and an unlisted
one holds none, so no entry equals what an unlisted address reads as, and equal memories are equal data. -/
def Memory.wf (m : Memory) : Bool := Memory.risingFrom 0 m

/-- The image of a program text: its words at consecutive addresses from `base`, modulo 2^18 (R9 `MEM_INIT`). -/
def Memory.image (base : Addr) : List Word → Memory
  | [] => []
  | w :: ws => Memory.write (Memory.image (base + 1) ws) base.toNat w

/-! ### Outcomes -/

/-- Go on from a next state; a stop stays a stop. -/
def onNext (o : Host.Outcome State Fault Refusal) (f : State → State) : Host.Outcome State Fault Refusal :=
  match o with
  | .next s => .next (f s)
  | .fault r => .fault r
  | .refused r => .refused r

/-! ### Memory in the state -/

/-- `MemRead(a, 1)` (R55): the content of a cell, if it holds a value. -/
def State.readCell (s : State) (a : Addr) : Option Word := s.mem.read a.toNat

/-- `MemRead` and go on with the value; a cell without a value faults the model (R55, D5, log 3). -/
def State.withCell (s : State) (a : Addr) (f : Word → State) : Host.Outcome State Fault Refusal :=
  match s.readCell a with
  | some v => .next (f v)
  | none => .fault (.cellWithoutValue a)

/-- Whether an address lies in `TEXT_RANGE` (R66). -/
def State.inText (s : State) (a : Addr) : Bool :=
  s.cfg.textRange.any fun r => decide ((a - r.first).toNat < r.size)

/-- `MemWrite(a, 1, v)` (R56); a store into the program text is refused (R66, D19, log 11). -/
def State.storeCell (s : State) (a : Addr) (v : Word) : Host.Outcome State Fault Refusal :=
  if s.inText a then .refused (.storeIntoText a) else .next { s with mem := s.mem.write a.toNat v }

/-! ### The program counter -/

/-- `pc <- pc + 1`, modulo 2^18 (R29, R30). -/
def State.advance (s : State) : State := { s with pc := s.pc + 1 }

/-- `pc <- target`. -/
def State.jumpTo (s : State) (target : Addr) : State := { s with pc := target }

/-- The state is final: `pc` is `STOP_ADDR` (R258, D22). -/
def State.ended (s : State) : Bool := s.cfg.stopAddr == some s.pc

end Sys2Proof.Machine
end

