-- ==== Sys2Proof/Machine/Operands.lean ====
section
/-!
DEFINITION. The operand forms: reading and writing a register (10_state.md R24, R25), the effective addresses
(20_memory.md R53), the shift amount (42_shift.md R140) and the branch target (48_branch.md R191).
-/

namespace Sys2Proof.Machine

/-- `x[r]` (R24): the value an instruction reads. Register 29 reads the keyboard; every occurrence of it in one
instruction has this one value (D15, log 19). The read's side effect is `State.afterReads`. -/
def State.x (s : State) : Reg → Word
  | .zero => 0
  | .gpr i => s.gpr.get i
  | .port => s.kbdValue
  | .sp => s.sp
  | .ra => s.ra

/-- The side effect of an instruction's register reads: exactly one `KbdRead()` if register 29 is among them, however
often it is named (R24, R218); no other read has one. -/
def State.afterReads (s : State) (srcs : List Reg) : State :=
  if srcs.contains .port then s.kbdConsume else s

/-- `x[r] <- v` (R25). -/
def State.setX (s : State) (r : Reg) (v : Word) : State :=
  match r with
  | .zero => s
  | .gpr i => { s with gpr := s.gpr.set i v }
  | .port => s.charWrite v
  | .sp => { s with sp := v }
  | .ra => { s with ra := v }

/-- `lw` and `sw`: `trunc18(x[fa] + sext_32(off9))` (R53, R54, R160). -/
def State.effAddr (s : State) (fa : Reg) (off9 : BitVec 9) : Addr := trunc18 (s.x fa + off9.signExtend 32)

/-- `push`: `trunc18(x[30])` (R53, R172). -/
def State.pushAddr (s : State) : Addr := trunc18 s.sp

/-- `pop`: `trunc18(x[30] + POP_ADDR_OFFSET)` (R53, R173, R174). -/
def State.popAddr (s : State) : Addr := trunc18 (s.sp + BitVec.ofNat 32 s.cfg.popAddrOffset.val)

/-- The shift amount `x[fb][4:0]` (R140). -/
def State.shiftAmount (s : State) (fb : Reg) : Nat := ((s.x fb).extractLsb' 0 5).toNat

/-- `(pc + 1 + sext_18(off14)) mod 2^18` (R191). -/
def State.branchTarget (s : State) (off14 : BitVec 14) : Addr := s.pc + 1 + off14.signExtend 18

/-- Read `srcs`, write `v` to register `fd`, go on to the next instruction: the shape of R120, R130, R140 and R158. -/
def State.result (s : State) (srcs : List Reg) (fd : Reg) (v : Word) : Host.Outcome State Fault Refusal :=
  .next (((s.afterReads srcs).setX fd v).advance)

/-- Read `srcs` and branch if `taken` (R190). -/
def State.branch (s : State) (srcs : List Reg) (taken : Bool) (off14 : BitVec 14) :
    Host.Outcome State Fault Refusal :=
  .next ((s.afterReads srcs).jumpTo (if taken then s.branchTarget off14 else s.pc + 1))

end Sys2Proof.Machine
end

