-- ==== Sys2Proof/Machine/Arithmetic.lean ====
section
/-!
DEFINITION. add, sub, inc, dec, mult (40_arithmetic.md R120 to R126): wrap-around modulo 2^32, no flag, no exception.
-/

namespace Sys2Proof.Machine

/-- R121. -/
def execAdd (fd fa fb : Reg) (s : State) : Host.Outcome State Fault Refusal :=
  s.result [fa, fb] fd (s.x fa + s.x fb)

/-- R122. -/
def execSub (fd fa fb : Reg) (s : State) : Host.Outcome State Fault Refusal :=
  s.result [fa, fb] fd (s.x fa - s.x fb)

/-- R123; a term whose fields differ stands for a reserved word (R98). -/
def execInc (fd fa : Reg) (s : State) : Host.Outcome State Fault Refusal :=
  if fa = fd then s.result [fd] fd (s.x fd + 1) else .fault (.reservedEncoding (.srcNotDest 2))

/-- R124; a term whose fields differ stands for a reserved word (R98). -/
def execDec (fd fa : Reg) (s : State) : Host.Outcome State Fault Refusal :=
  if fa = fd then s.result [fd] fd (s.x fd - 1) else .fault (.reservedEncoding (.srcNotDest 3))

/-- The 32-bit product of the low halves, each read as signed or unsigned (R125, D9, log 24). -/
def multProduct (multSigned : Bool) (a b : Word) : Word :=
  let lowA := a.extractLsb' 0 16
  let lowB := b.extractLsb' 0 16
  if multSigned then lowA.signExtend 32 * lowB.signExtend 32 else lowA.zeroExtend 32 * lowB.zeroExtend 32

/-- R125. -/
def execMult (fd fa fb : Reg) (s : State) : Host.Outcome State Fault Refusal :=
  s.result [fa, fb] fd (multProduct s.cfg.multSigned (s.x fa) (s.x fb))

end Sys2Proof.Machine
end

