-- ==== Sys2Proof/Machine/Flags.lean ====
section
/-!
DEFINITION. RISC-E has no status flags and no condition codes, and no instruction computes one (10_state.md R31). What
stands in their place is the conditions the branches evaluate directly (48_branch.md R193 to R199).
-/

namespace Sys2Proof.Machine

/-- `a > b`, as signed 32-bit numbers if `BR_CMP_SIGNED`, else as unsigned ones (R193, R199, D8, log 24). -/
def condGreater (cmpSigned : Bool) (a b : Word) : Bool := if cmpSigned then b.slt a else b.ult a

/-- `a < b`, under the same parameter (R194, R199). -/
def condLess (cmpSigned : Bool) (a b : Word) : Bool := if cmpSigned then a.slt b else a.ult b

/-- All 32 bits equal (R195). -/
def condEqual (a b : Word) : Bool := a == b

end Sys2Proof.Machine
end

