-- ==== Sys2Proof/Machine/Branch.lean ====
section
/-!
DEFINITION. br, brgt, brlt, breq, brchar, brvid, brpix (48_branch.md R190 to R199): relative to `pc + 1`, no delay slot.
The device branches test a readiness and change nothing but `pc`.
-/

namespace Sys2Proof.Machine

/-- R193. -/
def execBrgt (fa fb : Reg) (off14 : BitVec 14) (s : State) : Host.Outcome State Fault Refusal :=
  s.branch [fa, fb] (condGreater s.cfg.brCmpSigned (s.x fa) (s.x fb)) off14

/-- R194. -/
def execBrlt (fa fb : Reg) (off14 : BitVec 14) (s : State) : Host.Outcome State Fault Refusal :=
  s.branch [fa, fb] (condLess s.cfg.brCmpSigned (s.x fa) (s.x fb)) off14

/-- R195. -/
def execBreq (fa fb : Reg) (off14 : BitVec 14) (s : State) : Host.Outcome State Fault Refusal :=
  s.branch [fa, fb] (condEqual (s.x fa) (s.x fb)) off14

/-- R192. -/
def execBr (off14 : BitVec 14) (s : State) : Host.Outcome State Fault Refusal :=
  s.branch [] true off14

/-- R196: tests `KBD_READY`; it does not read register 29. -/
def execBrchar (off14 : BitVec 14) (s : State) : Host.Outcome State Fault Refusal :=
  s.branch [] s.kbdReady off14

/-- R197: tests `VID_READY`. -/
def execBrvid (off14 : BitVec 14) (s : State) : Host.Outcome State Fault Refusal :=
  s.branch [] s.vidReady off14

/-- R198: tests `PIX_READY`. -/
def execBrpix (off14 : BitVec 14) (s : State) : Host.Outcome State Fault Refusal :=
  s.branch [] s.pixReady off14

end Sys2Proof.Machine
end

