-- ==== Sys2Proof/Machine/Immediate.lean ====
section
/-!
DEFINITION. lli, lui (44_immediate.md R155 to R158): one half of the destination is replaced, the other kept.
-/

namespace Sys2Proof.Machine

/-- R155. -/
def execLli (fd : Reg) (imm16 : BitVec 16) (s : State) : Host.Outcome State Fault Refusal :=
  s.result [fd] fd ((s.x fd).extractLsb' 16 16 ++ imm16)

/-- R156. -/
def execLui (fd : Reg) (imm16 : BitVec 16) (s : State) : Host.Outcome State Fault Refusal :=
  s.result [fd] fd (imm16 ++ (s.x fd).extractLsb' 0 16)

end Sys2Proof.Machine
end

