-- ==== Sys2Proof/Machine/Jump.lean ====
section
/-!
DEFINITION. jr, jal (47_jump.md R180 to R185): absolute, no delay slot.
-/

namespace Sys2Proof.Machine

/-- R181: bits 31:18 of the register are dropped (D3, log 15). -/
def execJr (fa : Reg) (s : State) : Host.Outcome State Fault Refusal :=
  .next ((s.afterReads [fa]).jumpTo (trunc18 (s.x fa)))

/-- R183, R184: register 31 receives `zext_32((pc + 1) mod 2^18)` (D6, log 16). -/
def execJal (addr18 : Addr) (s : State) : Host.Outcome State Fault Refusal :=
  .next ((s.setX .ra ((s.pc + 1).zeroExtend 32)).jumpTo addr18)

end Sys2Proof.Machine
end

