-- ==== Sys2Proof/Machine/LoadStore.lean ====
section
/-!
DEFINITION. lw, sw, svga (45_memory.md R160 to R164).
-/

namespace Sys2Proof.Machine

/-- R161; a cell without a value faults the model (R55). -/
def execLw (fd fa : Reg) (off9 : BitVec 9) (s : State) : Host.Outcome State Fault Refusal :=
  s.withCell (s.effAddr fa off9) fun v => ((s.afterReads [fa]).setX fd v).advance

/-- R162; a store into the program text is refused (R66). -/
def execSw (fb fa : Reg) (off9 : BitVec 9) (s : State) : Host.Outcome State Fault Refusal :=
  onNext ((s.afterReads [fa, fb]).storeCell (s.effAddr fa off9) (s.x fb)) State.advance

/-- R163, R225; a channel that is not ready faults the model. -/
def execSvga (fb : Reg) (s : State) : Host.Outcome State Fault Refusal :=
  onNext ((s.afterReads [fb]).pixWrite (s.x fb)) State.advance

end Sys2Proof.Machine
end

