-- ==== Sys2Proof/Machine/Logical.lean ====
section
/-!
DEFINITION. and, or, xor, not (41_logical.md R130 to R134): bitwise on all 32 positions.
-/

namespace Sys2Proof.Machine

/-- R131. -/
def execAnd (fd fa fb : Reg) (s : State) : Host.Outcome State Fault Refusal :=
  s.result [fa, fb] fd (s.x fa &&& s.x fb)

/-- R132. -/
def execOr (fd fa fb : Reg) (s : State) : Host.Outcome State Fault Refusal :=
  s.result [fa, fb] fd (s.x fa ||| s.x fb)

/-- R133. -/
def execXor (fd fa fb : Reg) (s : State) : Host.Outcome State Fault Refusal :=
  s.result [fa, fb] fd (s.x fa ^^^ s.x fb)

/-- R134. -/
def execNot (fd fa : Reg) (s : State) : Host.Outcome State Fault Refusal :=
  s.result [fa] fd (~~~ s.x fa)

end Sys2Proof.Machine
end

