-- ==== Sys2Proof/Machine/Nop.lean ====
section
/-!
DEFINITION. nop (43_nop.md R150, R151).
-/

namespace Sys2Proof.Machine

/-- R150: `x[0] <- x[0] + x[0]`, of which only the advance of `pc` is left. -/
def execNop (s : State) : Host.Outcome State Fault Refusal :=
  s.result [.zero, .zero] .zero (s.x .zero + s.x .zero)

end Sys2Proof.Machine
end

