-- ==== Sys2Proof/Machine/Shift.lean ====
section
/-!
DEFINITION. sra, srl, sl, rol, ror (42_shift.md R140 to R146): `x[fa]` moved by `x[fb][4:0]`, 0 to 31. The rotates follow
the prose (90_conflicts.md C2).
-/

namespace Sys2Proof.Machine

/-- R144: the top `n` bits move to the bottom. -/
def rotateWordLeft (a : Word) (n : Nat) : Word := if n = 0 then a else (a <<< n) ||| (a >>> (32 - n))

/-- R145: the low `n` bits move to the top. -/
def rotateWordRight (a : Word) (n : Nat) : Word := if n = 0 then a else (a >>> n) ||| (a <<< (32 - n))

/-- R141. -/
def execSra (fd fa fb : Reg) (s : State) : Host.Outcome State Fault Refusal :=
  s.result [fa, fb] fd ((s.x fa).sshiftRight (s.shiftAmount fb))

/-- R142. -/
def execSrl (fd fa fb : Reg) (s : State) : Host.Outcome State Fault Refusal :=
  s.result [fa, fb] fd (s.x fa >>> s.shiftAmount fb)

/-- R143. -/
def execSl (fd fa fb : Reg) (s : State) : Host.Outcome State Fault Refusal :=
  s.result [fa, fb] fd (s.x fa <<< s.shiftAmount fb)

/-- R144. -/
def execRol (fd fa fb : Reg) (s : State) : Host.Outcome State Fault Refusal :=
  s.result [fa, fb] fd (rotateWordLeft (s.x fa) (s.shiftAmount fb))

/-- R145. -/
def execRor (fd fa fb : Reg) (s : State) : Host.Outcome State Fault Refusal :=
  s.result [fa, fb] fd (rotateWordRight (s.x fa) (s.shiftAmount fb))

end Sys2Proof.Machine
end

