-- ==== Sys2Proof/Machine/Stack.lean ====
section
/-!
DEFINITION. push, pop (46_stack.md R170 to R176): an empty descending stack through register 30.
-/

namespace Sys2Proof.Machine

/-- R172: all reads see the state before the instruction, so `push $30` stores the old value. -/
def execPush (fb : Reg) (s : State) : Host.Outcome State Fault Refusal :=
  onNext ((s.afterReads [fb]).storeCell s.pushAddr (s.x fb)) fun t => (t.setX .sp (s.sp - 1)).advance

/-- R173, R174; `pop $30` is refused (D24, log 12), a cell without a value faults the model (R55). -/
def execPop (fd : Reg) (s : State) : Host.Outcome State Fault Refusal :=
  if fd = .sp then .refused .popIntoStackPointer
  else s.withCell s.popAddr fun v => ((s.setX .sp (s.sp + 1)).setX fd v).advance

end Sys2Proof.Machine
end

