-- ==== Sys2Proof/Machine/Dispatch.lean ====
section
/-!
DEFINITION. The meaning of each instruction: one arm per constructor of `Instr` (30_encoding.md R95).
-/

namespace Sys2Proof.Machine

def exec (i : Instr) (s : State) : Host.Outcome State Fault Refusal :=
  match i with
  | .add fd fa fb => Sys2Proof.Machine.execAdd fd fa fb s
  | .sub fd fa fb => Sys2Proof.Machine.execSub fd fa fb s
  | .inc fd fa => Sys2Proof.Machine.execInc fd fa s
  | .dec fd fa => Sys2Proof.Machine.execDec fd fa s
  | .mult fd fa fb => Sys2Proof.Machine.execMult fd fa fb s
  | .and fd fa fb => Sys2Proof.Machine.execAnd fd fa fb s
  | .or fd fa fb => Sys2Proof.Machine.execOr fd fa fb s
  | .xor fd fa fb => Sys2Proof.Machine.execXor fd fa fb s
  | .not fd fa => Sys2Proof.Machine.execNot fd fa s
  | .sra fd fa fb => Sys2Proof.Machine.execSra fd fa fb s
  | .srl fd fa fb => Sys2Proof.Machine.execSrl fd fa fb s
  | .sl fd fa fb => Sys2Proof.Machine.execSl fd fa fb s
  | .rol fd fa fb => Sys2Proof.Machine.execRol fd fa fb s
  | .ror fd fa fb => Sys2Proof.Machine.execRor fd fa fb s
  | .nop => Sys2Proof.Machine.execNop s
  | .lli fd imm16 => Sys2Proof.Machine.execLli fd imm16 s
  | .lui fd imm16 => Sys2Proof.Machine.execLui fd imm16 s
  | .lw fd fa off9 => Sys2Proof.Machine.execLw fd fa off9 s
  | .sw fb fa off9 => Sys2Proof.Machine.execSw fb fa off9 s
  | .svga fb => Sys2Proof.Machine.execSvga fb s
  | .push fb => Sys2Proof.Machine.execPush fb s
  | .pop fd => Sys2Proof.Machine.execPop fd s
  | .jr fa => Sys2Proof.Machine.execJr fa s
  | .jal addr18 => Sys2Proof.Machine.execJal addr18 s
  | .brgt fa fb off14 => Sys2Proof.Machine.execBrgt fa fb off14 s
  | .brlt fa fb off14 => Sys2Proof.Machine.execBrlt fa fb off14 s
  | .breq fa fb off14 => Sys2Proof.Machine.execBreq fa fb off14 s
  | .br off14 => Sys2Proof.Machine.execBr off14 s
  | .brchar off14 => Sys2Proof.Machine.execBrchar off14 s
  | .brvid off14 => Sys2Proof.Machine.execBrvid off14 s
  | .brpix off14 => Sys2Proof.Machine.execBrpix off14 s

end Sys2Proof.Machine
end

