-- ==== Sys2Proof/Decode.lean ====
section
/-!
DEFINITION. From a 32-bit word to an instruction or a reserved encoding, and back (30_encoding.md R80 to R100). The
decoder follows R94: `op` and `mode` select the row of R95, then the row's fixed fields are checked (R97) and, for `inc`
and `dec`, `fa` = `fd` (R98). The encoder writes zeros in don't-care fields (R92). `opcodeMap` is R95's table of
match and mask, kept as data for the claims; the decoder does not use it.
-/

namespace Sys2Proof

/-- The register a 5-bit field selects (R20). -/
def regOfField (f : BitVec 5) : Reg :=
  match f.toNat with
  | 0 => .zero
  | 29 => .port
  | 30 => .sp
  | 31 => .ra
  | n + 1 => .gpr (Fin.ofNat 28 n)

/-- The number of a register, as its 5-bit field (R20). -/
def Reg.field : Reg → BitVec 5
  | .zero => 0
  | .gpr i => BitVec.ofNat 5 (i.val + 1)
  | .port => 29
  | .sp => 30
  | .ra => 31

/-! ### Fields of a word (R82) -/

def opField (w : Word) : BitVec 4 := w.extractLsb' 28 4

def modeField (w : Word) : BitVec 4 := w.extractLsb' 24 4

def fdField (w : Word) : BitVec 5 := w.extractLsb' 19 5

def faField (w : Word) : BitVec 5 := w.extractLsb' 14 5

def fbField (w : Word) : BitVec 5 := w.extractLsb' 9 5

def off9Field (w : Word) : BitVec 9 := w.extractLsb' 0 9

def imm16Field (w : Word) : BitVec 16 := w.extractLsb' 0 16

def addr18Field (w : Word) : Addr := w.extractLsb' 0 18

/-- R88: bits 23:19 are the high part and bits 8:0 the low part (the spec's decision D7, log 17). -/
def off14Field (w : Word) : BitVec 14 := fdField w ++ off9Field w

/-- Register fields as registers. -/
def fdReg (w : Word) : Reg := regOfField (fdField w)

def faReg (w : Word) : Reg := regOfField (faField w)

def fbReg (w : Word) : Reg := regOfField (fbField w)

/-- A word whose fixed fields must hold (R97). -/
def checkFixed (w : Word) (ok : Bool) (i : Instr) : Except Reserved Instr :=
  if ok then .ok i else .error (.fixedField (opField w) (modeField w))

/-- A word whose SrcA and Destination fields must agree (R98). -/
def checkSrcIsDest (w : Word) (i : Instr) : Except Reserved Instr :=
  if faField w = fdField w then .ok i else .error (.srcNotDest (modeField w))

/-- R94, R95: the instruction a word encodes, or why the word is reserved. -/
def decodeWord (w : Word) : Except Reserved Instr :=
  match (opField w).toNat, (modeField w).toNat with
  | 0, 0 => .ok (.add (fdReg w) (faReg w) (fbReg w))
  | 0, 1 => .ok (.sub (fdReg w) (faReg w) (fbReg w))
  | 0, 2 => checkSrcIsDest w (.inc (fdReg w) (faReg w))
  | 0, 3 => checkSrcIsDest w (.dec (fdReg w) (faReg w))
  | 1, 0 => .ok (.and (fdReg w) (faReg w) (fbReg w))
  | 1, 1 => .ok (.or (fdReg w) (faReg w) (fbReg w))
  | 1, 2 => .ok (.xor (fdReg w) (faReg w) (fbReg w))
  | 1, 3 => .ok (.not (fdReg w) (faReg w))
  | 2, 0 => .ok (.sra (fdReg w) (faReg w) (fbReg w))
  | 2, 1 => .ok (.srl (fdReg w) (faReg w) (fbReg w))
  | 2, 2 => .ok (.sl (fdReg w) (faReg w) (fbReg w))
  | 2, 3 => .ok (.rol (fdReg w) (faReg w) (fbReg w))
  | 2, 4 => .ok (.ror (fdReg w) (faReg w) (fbReg w))
  | 3, 0 => .ok (.mult (fdReg w) (faReg w) (fbReg w))
  | 4, 0 => checkFixed w (fdField w == 0 && faField w == 0 && fbField w == 0) .nop
  | 5, 0 => .ok (.lli (fdReg w) (imm16Field w))
  | 5, 1 => .ok (.lui (fdReg w) (imm16Field w))
  | 6, 0 => .ok (.br (off14Field w))
  | 6, 1 => .ok (.brgt (faReg w) (fbReg w) (off14Field w))
  | 6, 2 => .ok (.brlt (faReg w) (fbReg w) (off14Field w))
  | 6, 3 => .ok (.brchar (off14Field w))
  | 6, 4 => .ok (.brvid (off14Field w))
  | 6, 5 => .ok (.breq (faReg w) (fbReg w) (off14Field w))
  | 6, 6 => .ok (.brpix (off14Field w))
  | 7, 0 => .ok (.jr (faReg w))
  | 7, 1 => checkFixed w (fdField w == 31) (.jal (addr18Field w))
  | 8, 0 => .ok (.lw (fdReg w) (faReg w) (off9Field w))
  | 9, 0 => .ok (.sw (fbReg w) (faReg w) (off9Field w))
  | 9, 1 => .ok (.svga (fbReg w))
  | 10, 0 => checkFixed w (faField w == 30) (.push (fbReg w))
  | 11, 0 => checkFixed w (faField w == 30) (.pop (fdReg w))
  | _, _ => .error (.undefinedPair (opField w) (modeField w))

/-! ### The encoder -/

/-- Formats R and M (R83, R85): six fields, the last of them `off9` in format M. -/
def formatR (op mode : BitVec 4) (fd fa fb : BitVec 5) (low9 : BitVec 9) : Word :=
  op ++ mode ++ fd ++ fa ++ fb ++ low9

/-- Format I (R84): bits 18:16 are don't care. -/
def formatI (op mode : BitVec 4) (fd : BitVec 5) (x : BitVec 3) (imm16 : BitVec 16) : Word :=
  op ++ mode ++ fd ++ x ++ imm16

/-- Format B (R87, R88): the offset's high five bits in 23:19, its low nine in 8:0. -/
def formatB (op mode : BitVec 4) (off14 : BitVec 14) (fa fb : BitVec 5) : Word :=
  formatR op mode (off14.extractLsb' 9 5) fa fb (off14.extractLsb' 0 9)

/-- Format J (R89): bit 18 is don't care. -/
def formatJ (op mode : BitVec 4) (fd : BitVec 5) (x : BitVec 1) (addr18 : Addr) : Word :=
  op ++ mode ++ fd ++ x ++ addr18

/-- The word of an instruction, zeros in its don't-care fields (R92, R95). -/
def encode : Instr → Word
  | .add d a b => formatR 0 0 d.field a.field b.field 0
  | .sub d a b => formatR 0 1 d.field a.field b.field 0
  | .inc d a => formatR 0 2 d.field a.field 0 0
  | .dec d a => formatR 0 3 d.field a.field 0 0
  | .mult d a b => formatR 3 0 d.field a.field b.field 0
  | .and d a b => formatR 1 0 d.field a.field b.field 0
  | .or d a b => formatR 1 1 d.field a.field b.field 0
  | .xor d a b => formatR 1 2 d.field a.field b.field 0
  | .not d a => formatR 1 3 d.field a.field 0 0
  | .sra d a b => formatR 2 0 d.field a.field b.field 0
  | .srl d a b => formatR 2 1 d.field a.field b.field 0
  | .sl d a b => formatR 2 2 d.field a.field b.field 0
  | .rol d a b => formatR 2 3 d.field a.field b.field 0
  | .ror d a b => formatR 2 4 d.field a.field b.field 0
  | .nop => formatR 4 0 0 0 0 0
  | .lli d k => formatI 5 0 d.field 0 k
  | .lui d k => formatI 5 1 d.field 0 k
  | .lw d a o => formatR 8 0 d.field a.field 0 o
  | .sw b a o => formatR 9 0 0 a.field b.field o
  | .svga b => formatR 9 1 0 0 b.field 0
  | .push b => formatR 10 0 0 30 b.field 0
  | .pop d => formatR 11 0 d.field 30 0 0
  | .jr a => formatR 7 0 0 a.field 0 0
  | .jal t => formatJ 7 1 31 0 t
  | .brgt a b o => formatB 6 1 o a.field b.field
  | .brlt a b o => formatB 6 2 o a.field b.field
  | .breq a b o => formatB 6 5 o a.field b.field
  | .br o => formatB 6 0 o 0 0
  | .brchar o => formatB 6 3 o 0 0
  | .brvid o => formatB 6 4 o 0 0
  | .brpix o => formatB 6 6 o 0 0

/-- The bits of a word that take part in its meaning: ones where the instruction's row of R91 names a register, a fixed
value, an immediate, an offset or an address; zeros where it is don't care (R92). -/
def careMask : Instr → Word
  | .add _ _ _ | .sub _ _ _ | .mult _ _ _ | .and _ _ _ | .or _ _ _ | .xor _ _ _ => 0xFFFFFE00
  | .sra _ _ _ | .srl _ _ _ | .sl _ _ _ | .rol _ _ _ | .ror _ _ _ => 0xFFFFFE00
  | .inc _ _ | .dec _ _ | .not _ _ => 0xFFFFC000
  | .nop => 0xFFFFFE00
  | .lli _ _ | .lui _ _ => 0xFFF8FFFF
  | .lw _ _ _ => 0xFFFFC1FF
  | .sw _ _ _ => 0xFF07FFFF
  | .svga _ => 0xFF003E00
  | .push _ => 0xFF07FE00
  | .pop _ => 0xFFFFC000
  | .jr _ => 0xFF07C000
  | .jal _ => 0xFFFBFFFF
  | .brgt _ _ _ | .brlt _ _ _ | .breq _ _ _ => 0xFFFFFFFF
  | .br _ | .brchar _ | .brvid _ | .brpix _ => 0xFFF801FF

/-! ### The opcode map as the spec tabulates it -/

/-- One row of R95. -/
structure OpcodeRow where
  mnemonic : String
  matchBits : Word
  mask : Word
  deriving DecidableEq, Repr

/-- R95, the 31 rows in the manual's order. -/
def opcodeMap : List OpcodeRow :=
  [ ⟨"add", 0x00000000, 0xFF000000⟩, ⟨"sub", 0x01000000, 0xFF000000⟩, ⟨"inc", 0x02000000, 0xFF000000⟩,
    ⟨"dec", 0x03000000, 0xFF000000⟩, ⟨"mult", 0x30000000, 0xFF000000⟩, ⟨"and", 0x10000000, 0xFF000000⟩,
    ⟨"or", 0x11000000, 0xFF000000⟩, ⟨"xor", 0x12000000, 0xFF000000⟩, ⟨"not", 0x13000000, 0xFF000000⟩ ] ++
  [ ⟨"sra", 0x20000000, 0xFF000000⟩, ⟨"srl", 0x21000000, 0xFF000000⟩, ⟨"sl", 0x22000000, 0xFF000000⟩,
    ⟨"rol", 0x23000000, 0xFF000000⟩, ⟨"ror", 0x24000000, 0xFF000000⟩, ⟨"nop", 0x40000000, 0xFFFFFE00⟩,
    ⟨"lli", 0x50000000, 0xFF000000⟩, ⟨"lui", 0x51000000, 0xFF000000⟩, ⟨"lw", 0x80000000, 0xFF000000⟩ ] ++
  [ ⟨"sw", 0x90000000, 0xFF000000⟩, ⟨"svga", 0x91000000, 0xFF000000⟩, ⟨"push", 0xA0078000, 0xFF07C000⟩,
    ⟨"pop", 0xB0078000, 0xFF07C000⟩, ⟨"jr", 0x70000000, 0xFF000000⟩, ⟨"jal", 0x71F80000, 0xFFF80000⟩ ] ++
  [ ⟨"brgt", 0x61000000, 0xFF000000⟩, ⟨"brlt", 0x62000000, 0xFF000000⟩, ⟨"breq", 0x65000000, 0xFF000000⟩,
    ⟨"br", 0x60000000, 0xFF000000⟩, ⟨"brchar", 0x63000000, 0xFF000000⟩, ⟨"brvid", 0x64000000, 0xFF000000⟩,
    ⟨"brpix", 0x66000000, 0xFF000000⟩ ]

/-- A word matches a row of R95; for `inc` and `dec` the row adds "and `fa` = `fd`". -/
def OpcodeRow.matches (r : OpcodeRow) (w : Word) : Bool :=
  w &&& r.mask == r.matchBits && (!(r.mnemonic == "inc" || r.mnemonic == "dec") || faField w == fdField w)

/-- The instruction the decoder reads from the `nbits` low bits of `w`: one 32-bit word, its bits numbered as the opcode
table numbers them. -/
def decodeTableWord (nbits w : Nat) : Option Instr :=
  (decodeWord (BitVec.ofNat 32 (w % 2 ^ nbits))).toOption

end Sys2Proof
end

