-- ==== Sys2Proof/Machine/Fetch.lean ====
section
/-!
DEFINITION. Instruction fetch (20_memory.md R52) and the placing of a program in memory before a run (00_scope.md R9,
70_reset_and_hazards.md R251).
-/

namespace Sys2Proof.Machine

/-- `instr = MemRead(pc, 1)`, decoded (R52, R94): the instruction at `pc`, or why there is none. -/
def State.fetch (s : State) : Except Fault Instr :=
  match s.readCell s.pc with
  | none => .error (.cellWithoutValue s.pc)
  | some w =>
    match decodeWord w with
    | .error why => .error (.reservedEncoding why)
    | .ok i => .ok i

/-- One instruction word in the cell that the next step fetches. Were that cell `STOP_ADDR`, nothing would be fetched
there (R258), so a stop address at `pc` is withdrawn. DESIGN CHOICE (log 6): the cell is not added to `TEXT_RANGE` (R66),
so unless the run's `TEXT_RANGE` holds it already, a store to it is no store into program text. -/
def State.placeWord (s : State) (w : Word) : State :=
  { s with
    mem := s.mem.write s.pc.toNat w
    cfg := { s.cfg with stopAddr := if s.ended then none else s.cfg.stopAddr } }

/-- The machine before the first instruction of a program text loaded at `base`, with the spec's defaults: `RESET_PC` is
`LOAD_BASE`, `MEM_INIT` is the text, `STOP_ADDR` and `TEXT_RANGE` follow from it (R9, R38, R251, D4, D19, D22). -/
def State.bootProgram (base : Addr) (text : List Word) : State :=
  State.boot base (Config.forProgram base text.length) (Memory.image base text)

end Sys2Proof.Machine
end

