-- ==== Sys2Proof/Machine/Step.lean ====
section
/-!
DEFINITION. One step of the machine: the devices' steps at the instruction boundary, then one instruction
(60_exceptions.md R216, 70_reset_and_hazards.md R262). A final state (R258) stays as it is.
-/

namespace Sys2Proof.Machine

/-- At `STOP_ADDR` nothing is fetched and nothing happens any more (R258, log 7). Elsewhere the devices take their steps,
then the instruction at `pc` is fetched and executed. -/
def step (s : State) : Host.Outcome State Fault Refusal :=
  if s.ended then .next s
  else
    match s.boundary.fetch with
    | .error f => .fault f
    | .ok i => exec i s.boundary

/-- `s` with the instruction whose bits are the low `nbits` of `w` in the cell that the next step fetches (log 6). -/
def State.withFetchWord (s : State) (nbits w : Nat) : State := s.placeWord (BitVec.ofNat 32 (w % 2 ^ nbits))

end Sys2Proof.Machine
end

