-- ==== Sys2Proof/Machine/Assembly.lean ====
section
/-!
DEFINITION. The assembly text that the spec puts in scope (00_scope.md R6), from characters to instruction words
(30_encoding.md R102 to R112, R117; 44_immediate.md R159; 70_reset_and_hazards.md R257; decision D29). Every form that the
spec says is flagged as an error is an error here, by name (93_implementation_defined.md U24, U25). Text is a list of
characters. Where the spec is silent on the text, log 26 says what is done.
-/

namespace Sys2Proof.Machine

/-- Why a source text is rejected. -/
inductive AsmError where
  /-- "Unknown opcode." (R115). -/
  | unknownOpcode
  /-- A register that is not `R`, `r` or `$` and a decimal number 0 to 31 (R103). -/
  | illegalRegister
  /-- A `lw` or `sw` offset outside -256 to 255, or a branch offset outside -8192 to 8191 (D29). -/
  | inappropriateOffset
  /-- An immediate that is neither a hexadecimal number with the terminal `h` nor a decimal number in its range (R107). -/
  | badImmediate
  /-- Too few or too many arguments (R105). -/
  | wrongArguments
  /-- A comma that does not stand between two arguments (R104, N22, log 26). -/
  | strayComma
  /-- A label of more than seven characters, or that begins as R108 forbids, or that holds another character, or whose
  colon is not the first character of its line (log 26). -/
  | badLabel
  /-- The reserved word `stop`, in any case, as a label (R111). -/
  | reservedWord
  /-- A label that no line declares (R108). -/
  | undefinedLabel
  /-- A label declared twice (log 26). -/
  | duplicateLabel
  /-- A label declared on the same line as a comment (R108, log 26). -/
  | labelWithComment
  /-- A line of white space and a comment that does not begin with `//` (R110). -/
  | commentAfterSpace
  /-- A `stop` that is not the last statement (R257). -/
  | stopNotLast
  deriving DecidableEq, Repr

/-- One statement of the text; a branch or a jump to a label waits for the label's address. -/
inductive Stmt where
  | label (name : List Char)
  | stop
  | instr (i : Instr)
  /-- A branch whose offset is still 0, and the label it names. -/
  | branchTo (i : Instr) (target : List Char)
  | jalTo (target : List Char)
  deriving DecidableEq, Repr

/-! ### Lines and tokens -/

/-- Cut a text at every character that `p` picks. -/
def splitWhere (p : Char → Bool) : List Char → List (List Char)
  | [] => [[]]
  | c :: cs =>
    match splitWhere p cs with
    | [] => [[c]]
    | w :: ws => if p c then [] :: w :: ws else (c :: w) :: ws

/-- White space within a line. DESIGN CHOICE (log 26): space, tab and carriage return; R110 lists no characters. -/
def isSpace (c : Char) : Bool := c == ' ' || c == '\t' || c == '\r'

/-- The words of a line, cut at white space; every comma is a word of its own. -/
def tokens (cs : List Char) : List (List Char) :=
  (splitWhere isSpace (cs.flatMap fun c => if c = ',' then [' ', ',', ' '] else [c])).filter fun w => !w.isEmpty

/-- Arguments are delimited by white space or commas (R104). DESIGN CHOICE (log 26), by N22 ("accept only the forms
shown"): at most one comma between two arguments, and none before the first or after the last. -/
def arguments : List (List Char) → Except AsmError (List (List Char))
  | [] => .ok []
  | [a] => if a = [','] then .error .strayComma else .ok [a]
  | a :: b :: rest =>
    if a = [','] then .error .strayComma
    else if b = [','] then
      if rest.isEmpty then .error .strayComma else do return a :: (← arguments rest)
    else do return a :: (← arguments (b :: rest))

/-- The line before its comment, and whether it has one (R110). -/
def stripComment : List Char → List Char × Bool
  | [] => ([], false)
  | '/' :: '/' :: _ => ([], true)
  | c :: cs => (c :: (stripComment cs).1, (stripComment cs).2)

/-! ### Numbers, registers, labels -/

def isDigit (c : Char) : Bool := decide ('0' ≤ c) && decide (c ≤ '9')

def hexDigit (c : Char) : Option Nat :=
  if isDigit c then some (c.toNat - '0'.toNat)
  else if decide ('a' ≤ c) && decide (c ≤ 'f') then some (c.toNat - 'a'.toNat + 10)
  else if decide ('A' ≤ c) && decide (c ≤ 'F') then some (c.toNat - 'A'.toNat + 10)
  else none

def isAlphanumeric (c : Char) : Bool :=
  isDigit c || (decide ('a' ≤ c) && decide (c ≤ 'z')) || (decide ('A' ≤ c) && decide (c ≤ 'Z'))

/-- A number in base `base`, most significant digit first, after `acc`. -/
def digits (base : Nat) : Nat → List Char → Option Nat
  | acc, [] => some acc
  | acc, c :: cs =>
    match hexDigit c with
    | some d => if d < base then digits base (acc * base + d) cs else none
    | none => none

/-- A decimal number without a sign. DESIGN CHOICE (log 26): leading zeros are accepted and change nothing, in every place a
decimal number stands (a register, an offset, an immediate); the spec shows none. -/
def decimal (cs : List Char) : Option Nat := if cs.isEmpty then none else digits 10 0 cs

/-- A decimal number, optionally negative (R106). DESIGN CHOICE (log 26): `-0` is 0, and there is no sign `+`. -/
def signedDecimal : List Char → Option Int
  | '-' :: cs => (decimal cs).map fun n => -(n : Int)
  | cs => (decimal cs).map fun n => (n : Int)

/-- `least` to `most` hexadecimal digits and the terminal `h` (R107). -/
def hexadecimal (least most : Nat) (cs : List Char) : Option Nat :=
  let body := cs.dropLast
  if cs.getLast? = some 'h' ∧ least ≤ body.length ∧ body.length ≤ most then digits 16 0 body else none

/-- R103: the three spellings of a register. The number is any `decimal`, so `R07` is register 7 (DESIGN CHOICE, log 26). -/
def register : List Char → Except AsmError Reg
  | c :: cs =>
    match decimal cs with
    | some n =>
      if (c = 'R' ∨ c = 'r' ∨ c = '$') ∧ n < 32 then .ok (regOfField (BitVec.ofNat 5 n)) else .error .illegalRegister
    | none => .error .illegalRegister
  | [] => .error .illegalRegister

/-- R107, R159: hexadecimal digits with `h`, or a decimal number 0 to 65535. R107 asks for four digits and R159 says that
`lli $1 10h` loads 0x0010, so two are read as well; DESIGN CHOICE (log 26): one to four digits. -/
def immediate16 (cs : List Char) : Except AsmError (BitVec 16) :=
  match (hexadecimal 1 4 cs).or (decimal cs) with
  | some n => if n < 2 ^ 16 then .ok (BitVec.ofNat 16 n) else .error .badImmediate
  | none => .error .badImmediate

/-- A two's-complement field of `bits` bits from a number that must fit it (D29). -/
def fitSigned (bits : Nat) (n : Int) : Except AsmError (BitVec bits) :=
  if -(2 ^ (bits - 1) : Int) ≤ n ∧ n < (2 ^ (bits - 1) : Int) then .ok (BitVec.ofInt bits n)
  else .error .inappropriateOffset

def signedField (bits : Nat) (cs : List Char) : Except AsmError (BitVec bits) :=
  match signedDecimal cs with
  | some n => fitSigned bits n
  | none => .error .inappropriateOffset

/-- `stop` in any case (R111). -/
def isStop (cs : List Char) : Bool := cs.map Char.toLower == ['s', 't', 'o', 'p']

/-- R108: one to seven alphanumeric characters, the first neither a hexadecimal digit nor `R` nor `r`; `stop` is a reserved
word and no label (R111). Both the declaration of a label and a reference to one come here. DESIGN CHOICES (log 26): a label has
at least one character, and it may be spelled like a mnemonic. -/
def labelName (cs : List Char) : Except AsmError (List Char) :=
  match cs with
  | [] => .error .badLabel
  | c :: _ =>
    if isStop cs then .error .reservedWord
    else if cs.length ≤ 7 ∧ cs.all isAlphanumeric = true ∧ hexDigit c = none ∧ c ≠ 'R' ∧ c ≠ 'r' then .ok cs
    else .error .badLabel

/-! ### Statements (R102, R105) -/

def threeRegs (mk : Reg → Reg → Reg → Instr) : List (List Char) → Except AsmError Stmt
  | [d, a, b] => do return .instr (mk (← register d) (← register a) (← register b))
  | _ => .error .wrongArguments

def twoRegs (mk : Reg → Reg → Instr) : List (List Char) → Except AsmError Stmt
  | [d, a] => do return .instr (mk (← register d) (← register a))
  | _ => .error .wrongArguments

def oneReg (mk : Reg → Instr) : List (List Char) → Except AsmError Stmt
  | [d] => do return .instr (mk (← register d))
  | _ => .error .wrongArguments

def regAndImmediate (mk : Reg → BitVec 16 → Instr) : List (List Char) → Except AsmError Stmt
  | [d, k] => do return .instr (mk (← register d) (← immediate16 k))
  | _ => .error .wrongArguments

def regBaseOffset (mk : Reg → Reg → BitVec 9 → Instr) : List (List Char) → Except AsmError Stmt
  | [d, a, o] => do return .instr (mk (← register d) (← register a) (← signedField 9 o))
  | _ => .error .wrongArguments

/-- The operand of a branch: a number is the offset itself, anything else is a label (D29). -/
def branchOperand (mk : BitVec 14 → Instr) (o : List Char) : Except AsmError Stmt :=
  match signedDecimal o with
  | some n => do return .instr (mk (← fitSigned 14 n))
  | none => do return .branchTo (mk 0) (← labelName o)

def branchArg (mk : BitVec 14 → Instr) : List (List Char) → Except AsmError Stmt
  | [o] => branchOperand mk o
  | _ => .error .wrongArguments

def compareArgs (mk : Reg → Reg → BitVec 14 → Instr) : List (List Char) → Except AsmError Stmt
  | [a, b, o] => do branchOperand (mk (← register a) (← register b)) o
  | _ => .error .wrongArguments

/-- The operand of `jal`: five hexadecimal digits with `h`, below 2^18, or a label (R105, R107). -/
def jalArg : List (List Char) → Except AsmError Stmt
  | [t] =>
    match hexadecimal 5 5 t with
    | some n => if n < 2 ^ 18 then .ok (.instr (.jal (BitVec.ofNat 18 n))) else .error .badImmediate
    | none => do return .jalTo (← labelName t)
  | _ => .error .wrongArguments

/-- A mnemonic (R95; `mul` is the other spelling of `mult`, R117) and its arguments in the order of R105. -/
def instruction (mnemonic : String) (args : List (List Char)) : Except AsmError Stmt :=
  match mnemonic with
  | "add" => threeRegs .add args
  | "sub" => threeRegs .sub args
  | "inc" => oneReg (fun d => .inc d d) args
  | "dec" => oneReg (fun d => .dec d d) args
  | "mult" => threeRegs .mult args
  | "mul" => threeRegs .mult args
  | "and" => threeRegs .and args
  | "or" => threeRegs .or args
  | "xor" => threeRegs .xor args
  | "not" => twoRegs .not args
  | "sra" => threeRegs .sra args
  | "srl" => threeRegs .srl args
  | "sl" => threeRegs .sl args
  | "rol" => threeRegs .rol args
  | "ror" => threeRegs .ror args
  | "nop" => if args.isEmpty then .ok (.instr .nop) else .error .wrongArguments
  | "lli" => regAndImmediate .lli args
  | "lui" => regAndImmediate .lui args
  | "lw" => regBaseOffset .lw args
  | "sw" => regBaseOffset .sw args
  | "svga" => oneReg .svga args
  | "push" => oneReg .push args
  | "pop" => oneReg .pop args
  | "jr" => oneReg .jr args
  | "jal" => jalArg args
  | "brgt" => compareArgs .brgt args
  | "brlt" => compareArgs .brlt args
  | "breq" => compareArgs .breq args
  | "br" => branchArg .br args
  | "brchar" => branchArg .brchar args
  | "brvid" => branchArg .brvid args
  | "brpix" => branchArg .brpix args
  | _ => .error .unknownOpcode

/-- One line: nothing, a label, `stop` in any case (R111), or an instruction. DESIGN CHOICES (log 26): a label line starts
with its colon, as R108 says, and white space before the colon or between it and the name is an error although R110 lets
white space be used arbitrarily; a comment is an error on a line that declares a label, not on a line that only refers to one. -/
def parseLine (line : List Char) : Except AsmError (Option Stmt) :=
  let (body, commented) := stripComment line
  match body with
  | ':' :: name =>
    if commented then .error .labelWithComment
    else do return some (.label (← labelName ((name.reverse.dropWhile isSpace).reverse)))
  | _ =>
    match tokens body with
    | [] => if commented && !body.isEmpty then .error .commentAfterSpace else .ok none
    | m :: rest =>
      if m = [','] then .error .strayComma
      else if m.head? = some ':' then .error .badLabel
      else do
        let args ← arguments rest
        if isStop m then
          if args.isEmpty then return some .stop else .error .wrongArguments
        else return some (← instruction (String.ofList m) args)

/-- The statements of a text, in order. -/
def parseLines : List (List Char) → Except AsmError (List Stmt)
  | [] => .ok []
  | l :: ls => do
    let first ← parseLine l
    let rest ← parseLines ls
    return first.toList ++ rest

def parseText (text : List Char) : Except AsmError (List Stmt) := parseLines (splitWhere (· == '\n') text)

/-! ### Addresses and words -/

/-- A `stop` may stand only at the end (R257). -/
def stopOnlyLast : List Stmt → Bool
  | [] => true
  | [_] => true
  | .stop :: _ => false
  | _ :: rest => stopOnlyLast rest

/-- The labels with their addresses: a label names the address of the next instruction and occupies no cell (R108).
DESIGN CHOICE (log 26): the addresses of a text that runs past cell 0x3FFFF are counted on, not wrapped. -/
def labelTable : Nat → List Stmt → List (List Char × Nat)
  | _, [] => []
  | p, .label n :: rest => (n, p) :: labelTable p rest
  | p, .stop :: rest => labelTable p rest
  | p, .instr _ :: rest => labelTable (p + 1) rest
  | p, .branchTo _ _ :: rest => labelTable (p + 1) rest
  | p, .jalTo _ :: rest => labelTable (p + 1) rest

def lookupLabel (table : List (List Char × Nat)) (name : List Char) : Except AsmError Nat :=
  match table.lookup name with
  | some t => .ok t
  | none => .error .undefinedLabel

/-- A branch with the offset `o` in place of the 0 it was parsed with. -/
def withOffset (o : BitVec 14) : Instr → Instr
  | .brgt a b _ => .brgt a b o
  | .brlt a b _ => .brlt a b o
  | .breq a b _ => .breq a b o
  | .br _ => .br o
  | .brchar _ => .brchar o
  | .brvid _ => .brvid o
  | .brpix _ => .brpix o
  | i => i

/-- R109: a branch at `p` to a label at `t` has the offset `t - (p + 1)`; `jal` has the absolute address `t`. DESIGN CHOICE
(log 26) for a text that runs past cell 0x3FFFF: the offset is the distance in the text, so that a branch across the top of
memory is in reach and leads to its label modulo 2^18 (R30), and `jal` has the low 18 bits of `t`. -/
def resolve (table : List (List Char × Nat)) : Nat → List Stmt → Except AsmError (List Instr)
  | _, [] => .ok []
  | p, .label _ :: rest => resolve table p rest
  | p, .stop :: rest => resolve table p rest
  | p, .instr i :: rest => do return i :: (← resolve table (p + 1) rest)
  | p, .branchTo i name :: rest => do
    let t ← lookupLabel table name
    let o ← fitSigned 14 ((t : Int) - ((p : Int) + 1))
    return withOffset o i :: (← resolve table (p + 1) rest)
  | p, .jalTo name :: rest => do
    let t ← lookupLabel table name
    return .jal (BitVec.ofNat 18 t) :: (← resolve table (p + 1) rest)

/-- The instructions of a source text whose first one stands at `base` (`LOAD_BASE`). -/
def assembleInstrs (base : Addr) (text : List Char) : Except AsmError (List Instr) := do
  let stmts ← parseText text
  let table := labelTable base.toNat stmts
  if !stopOnlyLast stmts then .error .stopNotLast
  else if !decide ((table.map Prod.fst).Nodup) then .error .duplicateLabel
  else resolve table base.toNat stmts

/-- The words of a source text, zeros in don't-care fields (R92). -/
def assemble (base : Addr) (text : List Char) : Except AsmError (List Word) := do
  return (← assembleInstrs base text).map encode

end Sys2Proof.Machine
end

