-- ==== Sys2Proof/Safety.lean ====
section
/-!
DEFINITION. The terms claims are stated in: which registers an instruction reads and writes (30_encoding.md R91), where it
stores, and what it leaves as it was. A frame speaks of what can be observed: registers through `x[..]`, memory through
the read of one cell. Register 29 holds nothing (10_state.md R23), so frames of registers leave it out and speak of the
keyboard and of the character channel instead.
-/

namespace Sys2Proof.Machine

/-- The registers an instruction reads (R91, R172, R173); `inc`, `dec`, `lli`, `lui` read their destination (R218). -/
def sourceRegs : Instr → List Reg
  | .add _ a b | .sub _ a b | .mult _ a b | .and _ a b | .or _ a b | .xor _ a b => [a, b]
  | .sra _ a b | .srl _ a b | .sl _ a b | .rol _ a b | .ror _ a b => [a, b]
  | .inc d _ | .dec d _ | .lli d _ | .lui d _ => [d]
  | .not _ a => [a]
  | .lw _ a _ => [a]
  | .sw b a _ => [a, b]
  | .svga b => [b]
  | .push b => [.sp, b]
  | .pop _ => [.sp]
  | .jr a => [a]
  | .brgt a b _ | .brlt a b _ | .breq a b _ => [a, b]
  | .nop | .jal _ | .br _ | .brchar _ | .brvid _ | .brpix _ => []

/-- The registers an instruction writes: its destination (R91), register 30 for `push` and `pop` (R170), register 31 for
`jal` (R183). -/
def destRegs : Instr → List Reg
  | .add d _ _ | .sub d _ _ | .mult d _ _ | .and d _ _ | .or d _ _ | .xor d _ _ => [d]
  | .sra d _ _ | .srl d _ _ | .sl d _ _ | .rol d _ _ | .ror d _ _ => [d]
  | .inc d _ | .dec d _ | .lli d _ | .lui d _ | .not d _ | .lw d _ _ => [d]
  | .push _ => [.sp]
  | .pop d => [.sp, d]
  | .jal _ => [.ra]
  | .sw _ _ _ | .svga _ | .jr _ | .nop => []
  | .brgt _ _ _ | .brlt _ _ _ | .breq _ _ _ | .br _ | .brchar _ | .brvid _ | .brpix _ => []

/-- The cell an instruction stores to in a state, if it stores (R162, R172). -/
def storedTo (s : State) : Instr → Option Addr
  | .sw _ a o => some (s.effAddr a o)
  | .push _ => some s.pushAddr
  | .add _ _ _ | .sub _ _ _ | .mult _ _ _ | .and _ _ _ | .or _ _ _ | .xor _ _ _ => none
  | .sra _ _ _ | .srl _ _ _ | .sl _ _ _ | .rol _ _ _ | .ror _ _ _ => none
  | .inc _ _ | .dec _ _ | .lli _ _ | .lui _ _ | .not _ _ | .lw _ _ _ => none
  | .svga _ | .pop _ | .jr _ | .jal _ | .nop => none
  | .brgt _ _ _ | .brlt _ _ _ | .breq _ _ _ | .br _ | .brchar _ | .brvid _ | .brpix _ => none

/-- The instructions that assign `pc` (R29). -/
def assignsPc : Instr → Bool
  | .jr _ | .jal _ => true
  | .brgt _ _ _ | .brlt _ _ _ | .breq _ _ _ | .br _ | .brchar _ | .brvid _ | .brpix _ => true
  | .add _ _ _ | .sub _ _ _ | .mult _ _ _ | .and _ _ _ | .or _ _ _ | .xor _ _ _ => false
  | .sra _ _ _ | .srl _ _ _ | .sl _ _ _ | .rol _ _ _ | .ror _ _ _ => false
  | .inc _ _ | .dec _ _ | .lli _ _ | .lui _ _ | .not _ _ | .lw _ _ _ => false
  | .sw _ _ _ | .svga _ | .push _ | .pop _ | .nop => false

/-! ### What stays as it was -/

/-- Every register but those of `dests` reads as before. -/
def SameRegsBut (s t : State) (dests : List Reg) : Prop := ∀ r : Reg, r ≠ .port → r ∉ dests → t.x r = s.x r

/-- Every cell of memory reads as before. -/
def SameMemory (s t : State) : Prop := ∀ a : Addr, t.readCell a = s.readCell a

/-- Every cell of memory but `stored` reads as before. -/
def SameMemoryBut (s t : State) (stored : Addr) : Prop := ∀ a : Addr, a ≠ stored → t.readCell a = s.readCell a

/-- The character channel is as before. -/
def SameCharChannel (s t : State) : Prop := t.charOut = s.charOut ∧ t.vidReady = s.vidReady

/-- The pixel channel is as before. -/
def SamePixelChannel (s t : State) : Prop := t.pixOut = s.pixOut ∧ t.pixReady = s.pixReady

/-- The run's parameters and what the environment will do are as before. -/
def SameRun (s t : State) : Prop := t.cfg = s.cfg ∧ t.events = s.events

/-- The keyboard after an instruction that reads `srcs`: a read of register 29 consumes the key (R219), and no instruction
changes `KBD_CHAR` (R36). -/
def KeyboardAfter (s t : State) (srcs : List Reg) : Prop :=
  t.kbdChar = s.kbdChar ∧ t.kbdReady = if .port ∈ srcs then false else s.kbdReady

/-! ### What an instruction does -/

/-- `x[d] <- v` as it can be observed (R25): register 0 discards, register 29 sends bits 7:0 as a character if the channel
is ready and else does nothing, any other register reads `v`. -/
def Receives (s t : State) (d : Reg) (v : Word) : Prop :=
  (d ≠ .zero → d ≠ .port → t.x d = v) ∧
  if d = .port ∧ s.vidReady = true then t.charOut = s.charOut ++ [v.extractLsb' 0 8] else SameCharChannel s t

/-- An instruction that reads `srcs` and writes `v` to register `d`, and does nothing else but go on to `pc + 1`. -/
structure RegisterResult (s t : State) (srcs : List Reg) (d : Reg) (v : Word) : Prop where
  dest : Receives s t d v
  regs : SameRegsBut s t [d]
  keyboard : KeyboardAfter s t srcs
  memory : SameMemory s t
  pixels : SamePixelChannel s t
  run : SameRun s t
  pc : t.pc = s.pc + 1

/-- An instruction that reads `srcs` and changes nothing but `pc` (and the keyboard, if it reads register 29). -/
structure OnlyPcMoves (s t : State) (srcs : List Reg) (pc : Addr) : Prop where
  regs : SameRegsBut s t []
  keyboard : KeyboardAfter s t srcs
  memory : SameMemory s t
  chars : SameCharChannel s t
  pixels : SamePixelChannel s t
  run : SameRun s t
  pc : t.pc = pc

/-- The branch target as the integer of R191: `(pc + 1 + off) mod 2^18`. -/
def IsBranchTarget (s : State) (off14 : BitVec 14) (target : Addr) : Prop :=
  (target.toNat : Int) = ((s.pc.toNat : Int) + 1 + off14.toInt) % 2 ^ 18

/-- A branch (R190): to the target if the condition holds, else to `pc + 1`; nothing else changes. -/
def BranchResult (s t : State) (srcs : List Reg) (taken : Prop) (off14 : BitVec 14) : Prop :=
  ∃ target : Addr, IsBranchTarget s off14 target ∧
    ((taken ∧ OnlyPcMoves s t srcs target) ∨ (¬taken ∧ OnlyPcMoves s t srcs (s.pc + 1)))

/-! ### Invariants -/

/-- The invariant of a run: the memory keeps its canonical form. -/
def State.MemCanonical (s : State) : Prop := s.mem.wf = true

end Sys2Proof.Machine
end

