-- ==== Sys2Proof/WellFormed.lean ====
section
/-!
DEFINITION. Which terms of `Instr` stand for an instruction word: all of them, but for an `inc` or `dec` whose two
register fields differ (30_encoding.md R98). Every other operand is exactly as wide as its field.
-/

namespace Sys2Proof

/-- The check R98 asks of `inc` and `dec`; the other instructions have no operand that an encoding does not admit. -/
def Instr.wellFormed : Instr → Bool
  | .inc fd fa => fa == fd
  | .dec fd fa => fa == fd
  | .add _ _ _ | .sub _ _ _ | .mult _ _ _ => true
  | .and _ _ _ | .or _ _ _ | .xor _ _ _ | .not _ _ => true
  | .sra _ _ _ | .srl _ _ _ | .sl _ _ _ | .rol _ _ _ | .ror _ _ _ => true
  | .nop => true
  | .lli _ _ | .lui _ _ => true
  | .lw _ _ _ | .sw _ _ _ | .svga _ => true
  | .push _ | .pop _ => true
  | .jr _ | .jal _ => true
  | .brgt _ _ _ | .brlt _ _ _ | .breq _ _ _ => true
  | .br _ | .brchar _ | .brvid _ | .brpix _ => true

end Sys2Proof
end

