-- ==== Sys2Proof/Certificates/Slice0/Obligations.lean ====
section
/-!
DEFINITION. The statements for the provers, from the numbered rules of the spec. OBLIGATIONS.json lists them. Where a
statement rests on a decision of the spec (D<n>) or on a choice of the model (log <n>), its docstring says so.
-/

open Sys2Proof Sys2Proof.Machine

/-! ### Encoding (30_encoding.md) -/

/-- Decoding the word of a well-formed instruction gives the instruction back. -/
def Obligations.DecodeOfEncodeIsIdentity : Prop :=
  ∀ i : Instr, i.wellFormed = true → decodeWord (encode i) = .ok i

/-- R95: a word decodes to an instruction of a row of the opcode map exactly when it matches the row (`w & mask == match`,
and `fa` = `fd` where the row says so). -/
def Obligations.DecodeFollowsOpcodeMap : Prop :=
  ∀ (w : Word), ∀ row ∈ opcodeMap,
    (∃ i, decodeWord w = .ok i ∧ i.mnemonic = row.mnemonic) ↔ row.matches w = true

/-- The don't-care bits of R91 are don't care (decision D14), and the others are kept: a word that decodes to `i` is
`encode i` in every other bit, and every word that agrees with it in those bits decodes to `i` too. -/
def Obligations.MeaningDependsOnlyOnCareBits : Prop :=
  ∀ (w : Word) (i : Instr), decodeWord w = .ok i →
    w &&& careMask i = encode i ∧ ∀ w' : Word, w' &&& careMask i = w &&& careMask i → decodeWord w' = .ok i

/-- R96 to R98 (decisions D11, D12, D13): a word that matches no row of the opcode map is reserved, and a step that
fetches a reserved word faults; it never executes it. -/
def Obligations.ReservedWordsFault : Prop :=
  (∀ w : Word, (∀ row ∈ opcodeMap, row.matches w = false) → ∃ why, decodeWord w = .error why) ∧
  ∀ (s : State) (w : Word) (why : Reserved), s.ended = false → s.readCell s.pc = some w →
    decodeWord w = .error why → step s = .fault (.reservedEncoding why)

/-- A word of every family, written out from the encoding tables, decodes to the instruction it stands for. -/
def Obligations.WrittenOutWordsDecode : Prop :=
  decodeWord 0b00000000000010001000011000000000 = .ok (.add (.gpr 0) (.gpr 1) (.gpr 2)) ∧
  decodeWord 0b00010011000010001000000000000000 = .ok (.not (.gpr 0) (.gpr 1)) ∧
  decodeWord 0b00100100000010001000011000000000 = .ok (.ror (.gpr 0) (.gpr 1) (.gpr 2)) ∧
  decodeWord 0b01000000000000000000000000000000 = .ok .nop ∧
  decodeWord 0b01010001000010001010101111001101 = .ok (.lui (.gpr 0) 0xABCD) ∧
  decodeWord 0b10010000000000001000011111111100 = .ok (.sw (.gpr 2) (.gpr 1) 0x1FC) ∧
  decodeWord 0b10110000001101111000000000000000 = .ok (.pop (.gpr 5)) ∧
  decodeWord 0b01110001111110010010001101000101 = .ok (.jal 0x12345) ∧
  decodeWord 0b01100010111110000100010111111101 = .ok (.brlt (.gpr 0) (.gpr 1) 0x3FFD)

/-! ### One step -/

/-- A step at a cell whose word decodes to `i` is `exec i`, in the state the devices leave at the boundary; that state
differs from the one before in the readiness of the devices, in `KBD_CHAR` and in what remains of the events only
(decision D18, log 8). -/
def Obligations.StepRunsDecodedInstruction : Prop :=
  ∀ (s : State) (w : Word) (i : Instr), s.ended = false → s.readCell s.pc = some w → decodeWord w = .ok i →
    step s = exec i s.boundary ∧ SameRegsBut s s.boundary [] ∧ s.boundary.pc = s.pc ∧ SameMemory s s.boundary ∧
    s.boundary.charOut = s.charOut ∧ s.boundary.pixOut = s.pixOut ∧ s.boundary.cfg = s.cfg ∧
    s.boundary.draws = s.draws ∧ s.boundary.events = s.events.tail

/-- R258 (decision D22; log 7): a state whose `pc` is `STOP_ADDR` is final, and a step leaves it as it is. -/
def Obligations.RunEndsAtStopAddress : Prop :=
  ∀ s : State, s.cfg.stopAddr = some s.pc → step s = .next s

/-! ### State -/

/-- R21: register 0 reads 0 in every state, and a write to it changes nothing (the spec derives the latter). -/
def Obligations.RegisterZeroIsHardwired : Prop :=
  ∀ (s : State) (v : Word), s.x .zero = 0 ∧ s.setX .zero v = s

/-- The whole-machine frame of the registers: an instruction changes no register but those it names as a destination,
register 30 in `push` and `pop`, and register 31 in `jal` (R22, R26, R27, R91). -/
def Obligations.OnlyNamedRegistersChange : Prop :=
  ∀ (i : Instr) (s t : State), exec i s = .next t → SameRegsBut s t (destRegs i)

/-- The whole-machine frame of the devices: the keyboard changes only by a read of register 29, the character channel only
by a write of register 29, the pixel channel only by `svga`; no instruction changes the run's parameters or events. -/
def Obligations.OnlyNamedDevicesChange : Prop :=
  ∀ (i : Instr) (s t : State), exec i s = .next t →
    KeyboardAfter s t (sourceRegs i) ∧ (.port ∉ destRegs i → SameCharChannel s t) ∧
    ((∀ b, i ≠ .svga b) → SamePixelChannel s t) ∧ SameRun s t

/-- R29, R30 (decision D3): every instruction but a jump or a branch advances `pc` by 1 modulo 2^18. -/
def Obligations.PcAdvancesUnlessAssigned : Prop :=
  ∀ (i : Instr) (s t : State), exec i s = .next t → assignsPc i = false →
    t.pc.toNat = (s.pc.toNat + 1) % 2 ^ 18

/-- No step changes an open parameter of the run (R9). -/
def Obligations.StepKeepsTheParameters : Prop :=
  ∀ s t : State, step s = .next t → t.cfg = s.cfg

/-- The state after reset. From the spec: register 0 is 0, the output sequences are empty, no cell holds a value, and the
open parameters have their defaults (R38, R9, D4, D5). The model's choices: every other register is 0 (log 1), the
device flags (log 2), no stop address and no program text (log 5), no device events (log 8). -/
def Obligations.ResetState : Prop :=
  State.reset.pc = 0 ∧ (∀ r : Reg, r ≠ .port → State.reset.x r = 0) ∧ (∀ a : Addr, State.reset.readCell a = none) ∧
  State.reset.charOut = [] ∧ State.reset.pixOut = [] ∧
  State.reset.cfg.brCmpSigned = true ∧ State.reset.cfg.multSigned = true ∧ State.reset.cfg.popAddrOffset = 1 ∧
  State.reset.cfg.stopAddr = none ∧ State.reset.cfg.textRange = [] ∧
  State.reset.kbdReady = false ∧ State.reset.kbdChar = 0 ∧ State.reset.vidReady = true ∧
  State.reset.pixReady = true ∧ State.reset.events = []

/-! ### Memory (20_memory.md) -/

/-- The memory keeps its canonical form: strictly rising addresses below 2^18 (the form is the model's choice, log 4). -/
def Obligations.StepKeepsMemoryCanonical : Prop :=
  ∀ s t : State, s.MemCanonical → step s = .next t → t.MemCanonical

/-- The memory is canonical after reset and after the loading of any program. The form is the model's choice (log 4), and so
is that `State.bootProgram` is the load (log 6). -/
def Obligations.BootMemoryIsCanonical : Prop :=
  State.reset.MemCanonical ∧ ∀ (base : Addr) (text : List Word), (State.bootProgram base text).MemCanonical

/-- R66 (decision D19): along every run the program text stays as it was. -/
def Obligations.ProgramTextNeverChanges : Prop :=
  ∀ (k : Nat) (s t : State) (a : Addr), core.run k s = .next t → s.inText a = true →
    t.readCell a = s.readCell a ∧ t.inText a = true

/-- The whole-machine frame of memory: an instruction changes no cell but the one `sw` or `push` stores to, and that one
lies outside the program text. -/
def Obligations.OnlyStoresChangeMemory : Prop :=
  ∀ (i : Instr) (s t : State), exec i s = .next t →
    (∀ a : Addr, storedTo s i ≠ some a → t.readCell a = s.readCell a) ∧
    ∀ a : Addr, storedTo s i = some a → s.inText a = false

/-- R57: a `sw` followed by a `lw` of the same address returns the stored value unchanged. -/
def Obligations.StoreThenLoadReturnsTheValue : Prop :=
  ∀ (s t : State) (b a a' d : Reg) (o o' : BitVec 9), exec (.sw b a o) s = .next t →
    t.effAddr a' o' = s.effAddr a o → d ≠ .zero → d ≠ .port →
    ∃ u, exec (.lw d a' o') t = .next u ∧ u.x d = s.x b

/-- R68: the computed address 0x1247FFFF names cell 0x3FFFF. -/
def Obligations.TruncatedAddressExample : Prop :=
  trunc18 0x1247FFFF = 0x3FFFF ∧
  ∀ (s : State) (d a : Reg) (o : BitVec 9) (v : Word), s.x a + o.signExtend 32 = 0x1247FFFF →
    s.readCell 0x3FFFF = some v → d ≠ .zero → d ≠ .port → ∃ t, exec (.lw d a o) s = .next t ∧ t.x d = v

/-- A read of a cell that nothing has given a value faults (R55, decision D5, log 3): a load, a pop, a fetch. -/
def Obligations.ValuelessCellFaults : Prop :=
  (∀ (s : State) (d a : Reg) (o : BitVec 9), s.readCell (s.effAddr a o) = none →
    exec (.lw d a o) s = .fault (.cellWithoutValue (s.effAddr a o))) ∧
  (∀ (s : State) (d : Reg), d ≠ .sp → s.readCell s.popAddr = none →
    exec (.pop d) s = .fault (.cellWithoutValue s.popAddr)) ∧
  ∀ s : State, s.ended = false → s.readCell s.pc = none → step s = .fault (.cellWithoutValue s.pc)

/-- A store into the program text is refused (R66, decision D19, log 11). -/
def Obligations.StoreIntoTextIsRefused : Prop :=
  (∀ (s : State) (b a : Reg) (o : BitVec 9), s.inText (s.effAddr a o) = true →
    exec (.sw b a o) s = .refused (.storeIntoText (s.effAddr a o))) ∧
  ∀ (s : State) (b : Reg), s.inText s.pushAddr = true →
    exec (.push b) s = .refused (.storeIntoText s.pushAddr)

/-! ### The keyboard and the VGA controller (60_exceptions.md) -/

/-- R221: a write of register 29 hands bits 7:0 to a ready channel, is ignored otherwise, and is stored nowhere. -/
def Obligations.CharacterWrite : Prop :=
  ∀ (s : State) (v : Word),
    (s.vidReady = true → (s.setX .port v).charOut = s.charOut ++ [v.extractLsb' 0 8]) ∧
    (s.vidReady = false → s.setX .port v = s) ∧
    SameRegsBut s (s.setX .port v) [] ∧ SameMemory s (s.setX .port v) ∧ KeyboardAfter s (s.setX .port v) [] ∧
    SamePixelChannel s (s.setX .port v) ∧ (s.setX .port v).pc = s.pc

/-- R217: a key press at a boundary replaces `KBD_CHAR` by the key's code and sets `KBD_READY` (of a key with code 00h the
source does not say, and the event does: log 10), and does nothing else; nothing else sets `KBD_READY`. -/
def Obligations.KeyPress : Prop :=
  (∀ (s : State) (k : Key) (z : Bool) (later : List (List DeviceEvent)),
    s.events = [.keyPressed k z] :: later →
    s.boundary.kbdChar = keyCode k ∧ (keyCode k ≠ 0 → s.boundary.kbdReady = true) ∧
    (keyCode k = 0 → s.boundary.kbdReady = (s.kbdReady || z)) ∧
    s.boundary = { s with events := later, kbdChar := keyCode k, kbdReady := s.boundary.kbdReady }) ∧
  (∀ (s : State) (e : DeviceEvent), (∀ k z, e ≠ .keyPressed k z) →
    (s.deliver e).kbdReady = s.kbdReady ∧ (s.deliver e).kbdChar = s.kbdChar) ∧
  ∀ (i : Instr) (s t : State), exec i s = .next t →
    t.kbdChar = s.kbdChar ∧ (t.kbdReady = true → s.kbdReady = true)

/-- R224, R227 (decision D18): after the device steps of a boundary, whichever they are and in whichever order, a channel
is ready exactly if it was or if one of them made it so; registers, memory, outputs and parameters are as before. That the
steps are a list is the model's (log 8); with no list left no device does anything. -/
def Obligations.ChannelsBecomeReady : Prop :=
  (∀ (s : State) (now : List DeviceEvent) (later : List (List DeviceEvent)), s.events = now :: later →
    (s.boundary.vidReady = true ↔ s.vidReady = true ∨ .videoDrained ∈ now) ∧
    (s.boundary.pixReady = true ↔ s.pixReady = true ∨ .pixelsDrained ∈ now) ∧
    s.boundary =
      { s with
        events := later
        kbdReady := s.boundary.kbdReady
        kbdChar := s.boundary.kbdChar
        vidReady := s.boundary.vidReady
        pixReady := s.boundary.pixReady }) ∧
  ∀ s : State, s.events = [] → s.boundary = s

/-- R220: the code of a key. That a key of the ASCII kind may have any 8-bit code is the model's choice (log 29). -/
def Obligations.KeyCodes : Prop :=
  (∀ c : Byte, keyCode (.ascii c) = c) ∧ keyCode .up = 0x38 ∧ keyCode .down = 0x32 ∧ keyCode .left = 0x34 ∧
  keyCode .right = 0x36 ∧ keyCode .returnKey = 0x0A ∧ keyCode .enter = 0x0A ∧ keyCode .uncoded = 0x00

/-- An instruction with register 29 in both of its source fields makes one keyboard read (R24, R219, decision D15, log 19),
whether a key waits or not: both operands have the one value `v`, whose bits 7:0 are the key if one waits, no key waits
afterwards, and one free value is used (a second one by a character that a ready channel accepts, where register 29 is the
destination too). Every instruction with two source fields is covered. -/
def Obligations.OneKeyboardReadPerInstruction : Prop :=
  ∀ s : State, ∃ v : Word, (s.kbdReady = true → v.extractLsb' 0 8 = s.kbdChar) ∧
    (∀ (d : Reg) (f : Reg → Reg → Reg → Instr) (result : Word),
      (f, result) ∈
        [ (Instr.add, v + v), (Instr.sub, 0), (Instr.and, v), (Instr.or, v), (Instr.xor, 0),
          (Instr.sra, v.sshiftRight (v.toNat % 32)), (Instr.srl, v >>> (v.toNat % 32)),
          (Instr.sl, v <<< (v.toNat % 32)), (Instr.rol, v.rotateLeft (v.toNat % 32)),
          (Instr.ror, v.rotateRight (v.toNat % 32)),
          (Instr.mult,
            if s.cfg.multSigned then (v.extractLsb' 0 16).signExtend 32 * (v.extractLsb' 0 16).signExtend 32
            else (v.extractLsb' 0 16).zeroExtend 32 * (v.extractLsb' 0 16).zeroExtend 32) ] →
      ∃ t, exec (f d .port .port) s = .next t ∧ RegisterResult s t [.port] d result ∧
        t.draws = s.draws + if d = .port ∧ s.vidReady = true then 2 else 1) ∧
    (∀ o : BitVec 9, s.inText (trunc18 (v + o.signExtend 32)) = false →
      ∃ t, exec (.sw .port .port o) s = .next t ∧ t.readCell (trunc18 (v + o.signExtend 32)) = some v ∧
        SameMemoryBut s t (trunc18 (v + o.signExtend 32)) ∧ KeyboardAfter s t [.port] ∧ t.draws = s.draws + 1) ∧
    ∀ o : BitVec 14,
      (∃ t, exec (.brgt .port .port o) s = .next t ∧ BranchResult s t [.port] False o ∧ t.draws = s.draws + 1) ∧
      (∃ t, exec (.brlt .port .port o) s = .next t ∧ BranchResult s t [.port] False o ∧ t.draws = s.draws + 1) ∧
      ∃ t, exec (.breq .port .port o) s = .next t ∧ BranchResult s t [.port] True o ∧ t.draws = s.draws + 1

/-- Masked by 0xFF, a read of a waiting key is that key, whatever the bits are that the source leaves open (R219, D15). -/
def Obligations.MaskedKeyboardReadIsTheKey : Prop :=
  ∀ (s : State) (d m : Reg), s.kbdReady = true → m ≠ .port → s.x m = 0xFF → d ≠ .zero → d ≠ .port →
    ∃ t, exec (.and d .port m) s = .next t ∧ t.x d = s.kbdChar.zeroExtend 32 ∧ t.kbdReady = false

/-- R229 (decision D18): a readiness that holds still holds after a step, unless that step's instruction used the channel:
a character was accepted, a pixel word was accepted, register 29 was read. -/
def Obligations.ReadinessPersists : Prop :=
  ∀ s t : State, step s = .next t →
    (s.vidReady = true → t.vidReady = true ∨ ∃ c, t.charOut = s.charOut ++ [c]) ∧
    (s.pixReady = true → t.pixReady = true ∨ ∃ w, t.pixOut = s.pixOut ++ [w]) ∧
    (s.kbdReady = true → t.kbdReady = true ∨ ∃ i, s.boundary.fetch = .ok i ∧ .port ∈ sourceRegs i)

/-- R222, R226: along every run the two output sequences only grow at their ends. -/
def Obligations.OutputOnlyAppends : Prop :=
  ∀ (k : Nat) (s t : State), core.run k s = .next t →
    (∃ cs, cs.length ≤ k ∧ t.charOut = s.charOut ++ cs) ∧ ∃ ps, ps.length ≤ k ∧ t.pixOut = s.pixOut ++ ps

/-- The polling idioms of R200 are sound (R229, decision D18): what a polling branch found ready is still ready at the next
instruction, whatever the devices do in between, and is then used with effect: the pixel word is accepted, the character
is accepted, the key is read. -/
def Obligations.PollThenUseIsSound : Prop :=
  ∀ (s t : State) (o : BitVec 14), s.ended = false → step s = .next t → t.ended = false →
    (∀ b : Reg, s.boundary.fetch = .ok (.brpix o) → s.boundary.pixReady = true →
      t.boundary.fetch = .ok (.svga b) → ∃ u, step t = .next u ∧ u.pixOut = s.pixOut ++ [t.boundary.x b]) ∧
    (∀ a b : Reg, s.boundary.fetch = .ok (.brvid o) → s.boundary.vidReady = true →
      t.boundary.fetch = .ok (.add .port a b) →
      ∃ u, step t = .next u ∧ u.charOut = s.charOut ++ [(t.boundary.x a + t.boundary.x b).extractLsb' 0 8]) ∧
    ∀ d m : Reg, s.boundary.fetch = .ok (.brchar o) → s.boundary.kbdReady = true →
      t.boundary.fetch = .ok (.and d .port m) → m ≠ .port → t.x m = 0xFF → d ≠ .zero → d ≠ .port →
      ∃ u, step t = .next u ∧ u.x d = t.boundary.kbdChar.zeroExtend 32 ∧ u.kbdReady = false

/-! ### Arithmetic (40_arithmetic.md) -/

/-- R121, R122. -/
def Obligations.AddAndSubWrap : Prop :=
  (∀ (d a b : BitVec 5) (x : BitVec 9),
    decodeWord (formatR 0 0 d a b x) = .ok (.add (regOfField d) (regOfField a) (regOfField b)) ∧
    decodeWord (formatR 0 1 d a b x) = .ok (.sub (regOfField d) (regOfField a) (regOfField b))) ∧
  ∀ (d a b : Reg) (s : State),
    (∃ t v, exec (.add d a b) s = .next t ∧ v.toNat = ((s.x a).toNat + (s.x b).toNat) % 2 ^ 32 ∧
      RegisterResult s t [a, b] d v) ∧
    ∃ t v, exec (.sub d a b) s = .next t ∧ (v.toNat : Int) = ((s.x a).toNat - (s.x b).toNat : Int) % 2 ^ 32 ∧
      RegisterResult s t [a, b] d v

/-- R123, R124, and R98 (decision D11): a word whose `fa` differs from `fd` is reserved. -/
def Obligations.IncAndDecWrap : Prop :=
  (∀ (d a b : BitVec 5) (x : BitVec 9),
    decodeWord (formatR 0 2 d d b x) = .ok (.inc (regOfField d) (regOfField d)) ∧
    decodeWord (formatR 0 3 d d b x) = .ok (.dec (regOfField d) (regOfField d)) ∧
    (a ≠ d → decodeWord (formatR 0 2 d a b x) = .error (.srcNotDest 2) ∧
      decodeWord (formatR 0 3 d a b x) = .error (.srcNotDest 3))) ∧
  ∀ (d a : Reg) (s : State),
    (∃ t v, exec (.inc d d) s = .next t ∧ v.toNat = ((s.x d).toNat + 1) % 2 ^ 32 ∧ RegisterResult s t [d] d v) ∧
    (∃ t v, exec (.dec d d) s = .next t ∧ (v.toNat : Int) = ((s.x d).toNat - 1 : Int) % 2 ^ 32 ∧
      RegisterResult s t [d] d v) ∧
    (a ≠ d → exec (.inc d a) s = .fault (.reservedEncoding (.srcNotDest 2)) ∧
      exec (.dec d a) s = .fault (.reservedEncoding (.srcNotDest 3)))

/-- R125, for both settings of `MULT_SIGNED` (decision D9): the whole product of the low halves. -/
def Obligations.MultOfLowHalves : Prop :=
  (∀ (d a b : BitVec 5) (x : BitVec 9),
    decodeWord (formatR 3 0 d a b x) = .ok (.mult (regOfField d) (regOfField a) (regOfField b))) ∧
  ∀ (d a b : Reg) (s : State), ∃ t v, exec (.mult d a b) s = .next t ∧ RegisterResult s t [a, b] d v ∧
    if s.cfg.multSigned = true then
      v.toInt = ((s.x a).extractLsb' 0 16).toInt * ((s.x b).extractLsb' 0 16).toInt
    else v.toNat = ((s.x a).toNat % 2 ^ 16) * ((s.x b).toNat % 2 ^ 16)

/-! ### Logical (41_logical.md) -/

/-- R131 to R134: each bit of the result from the same bit of the sources. -/
def Obligations.LogicalBitByBit : Prop :=
  (∀ (d a b : BitVec 5) (x : BitVec 9),
    decodeWord (formatR 1 0 d a b x) = .ok (.and (regOfField d) (regOfField a) (regOfField b)) ∧
    decodeWord (formatR 1 1 d a b x) = .ok (.or (regOfField d) (regOfField a) (regOfField b)) ∧
    decodeWord (formatR 1 2 d a b x) = .ok (.xor (regOfField d) (regOfField a) (regOfField b)) ∧
    decodeWord (formatR 1 3 d a b x) = .ok (.not (regOfField d) (regOfField a))) ∧
  ∀ (d a b : Reg) (s : State),
    (∃ t v, exec (.and d a b) s = .next t ∧ RegisterResult s t [a, b] d v ∧
      ∀ k < 32, v.getLsbD k = true ↔ (s.x a).getLsbD k = true ∧ (s.x b).getLsbD k = true) ∧
    (∃ t v, exec (.or d a b) s = .next t ∧ RegisterResult s t [a, b] d v ∧
      ∀ k < 32, v.getLsbD k = true ↔ (s.x a).getLsbD k = true ∨ (s.x b).getLsbD k = true) ∧
    (∃ t v, exec (.xor d a b) s = .next t ∧ RegisterResult s t [a, b] d v ∧
      ∀ k < 32, v.getLsbD k = true ↔ (s.x a).getLsbD k ≠ (s.x b).getLsbD k) ∧
    ∃ t v, exec (.not d a) s = .next t ∧ RegisterResult s t [a] d v ∧
      ∀ k < 32, v.getLsbD k = true ↔ (s.x a).getLsbD k = false

/-! ### Shifts (42_shift.md) -/

/-- R141 to R143, by the equivalents those rules give: `n` is the low five bits of `$b`. -/
def Obligations.ShiftsByTheLowFiveBits : Prop :=
  (∀ (d a b : BitVec 5) (x : BitVec 9),
    decodeWord (formatR 2 0 d a b x) = .ok (.sra (regOfField d) (regOfField a) (regOfField b)) ∧
    decodeWord (formatR 2 1 d a b x) = .ok (.srl (regOfField d) (regOfField a) (regOfField b)) ∧
    decodeWord (formatR 2 2 d a b x) = .ok (.sl (regOfField d) (regOfField a) (regOfField b))) ∧
  ∀ (d a b : Reg) (s : State),
    (∃ t v, exec (.sra d a b) s = .next t ∧ RegisterResult s t [a, b] d v ∧
      v.toInt = (s.x a).toInt / 2 ^ ((s.x b).toNat % 32)) ∧
    (∃ t v, exec (.srl d a b) s = .next t ∧ RegisterResult s t [a, b] d v ∧
      v.toNat = (s.x a).toNat / 2 ^ ((s.x b).toNat % 32)) ∧
    ∃ t v, exec (.sl d a b) s = .next t ∧ RegisterResult s t [a, b] d v ∧
      v.toNat = (s.x a).toNat * 2 ^ ((s.x b).toNat % 32) % 2 ^ 32

/-- R144, R145: the rotates move every bit, none is lost. -/
def Obligations.RotatesMoveEveryBit : Prop :=
  (∀ (d a b : BitVec 5) (x : BitVec 9),
    decodeWord (formatR 2 3 d a b x) = .ok (.rol (regOfField d) (regOfField a) (regOfField b)) ∧
    decodeWord (formatR 2 4 d a b x) = .ok (.ror (regOfField d) (regOfField a) (regOfField b))) ∧
  ∀ (d a b : Reg) (s : State),
    (∃ t v, exec (.rol d a b) s = .next t ∧ RegisterResult s t [a, b] d v ∧
      ∀ k < 32, v.getLsbD ((k + (s.x b).toNat % 32) % 32) = (s.x a).getLsbD k) ∧
    ∃ t v, exec (.ror d a b) s = .next t ∧ RegisterResult s t [a, b] d v ∧
      ∀ k < 32, v.getLsbD k = (s.x a).getLsbD ((k + (s.x b).toNat % 32) % 32)

/-! ### nop and immediates (43_nop.md, 44_immediate.md) -/

/-- R150: `nop` moves `pc` and nothing else, not even one of the model's own fields; another value in a printed field is
reserved (decision D12). -/
def Obligations.NopOnlyAdvances : Prop :=
  (∀ x : BitVec 9, decodeWord (formatR 4 0 0 0 0 x) = .ok .nop) ∧
  (∀ (d a b : BitVec 5) (x : BitVec 9), ¬(d = 0 ∧ a = 0 ∧ b = 0) →
    decodeWord (formatR 4 0 d a b x) = .error (.fixedField 4 0)) ∧
  ∀ s : State, exec .nop s = .next { s with pc := s.pc + 1 }

/-- R155, R156: one half of the register is the immediate, the other half is kept. -/
def Obligations.ImmediatesReplaceOneHalf : Prop :=
  (∀ (d : BitVec 5) (x : BitVec 3) (k : BitVec 16),
    decodeWord (formatI 5 0 d x k) = .ok (.lli (regOfField d) k) ∧
    decodeWord (formatI 5 1 d x k) = .ok (.lui (regOfField d) k)) ∧
  ∀ (d : Reg) (k : BitVec 16) (s : State),
    (∃ t v, exec (.lli d k) s = .next t ∧ RegisterResult s t [d] d v ∧
      v.extractLsb' 16 16 = (s.x d).extractLsb' 16 16 ∧ v.extractLsb' 0 16 = k) ∧
    ∃ t v, exec (.lui d k) s = .next t ∧ RegisterResult s t [d] d v ∧
      v.extractLsb' 16 16 = k ∧ v.extractLsb' 0 16 = (s.x d).extractLsb' 0 16

/-- R157: `lli` and `lui`, in either order, load any 32-bit constant. -/
def Obligations.TwoImmediatesLoadAnyConstant : Prop :=
  ∀ (s : State) (d : Reg) (k : Word), d ≠ .zero → d ≠ .port →
    (∃ t u, exec (.lli d (k.extractLsb' 0 16)) s = .next t ∧ exec (.lui d (k.extractLsb' 16 16)) t = .next u ∧
      u.x d = k) ∧
    ∃ t u, exec (.lui d (k.extractLsb' 16 16)) s = .next t ∧ exec (.lli d (k.extractLsb' 0 16)) t = .next u ∧
      u.x d = k

/-! ### Memory and stack instructions (45_memory.md, 46_stack.md) -/

/-- R161: `lw` from a cell that holds a value, at `trunc18(x[fa] + sext_32(off9))`. -/
def Obligations.LoadWord : Prop :=
  (∀ (d a b : BitVec 5) (o : BitVec 9),
    decodeWord (formatR 8 0 d a b o) = .ok (.lw (regOfField d) (regOfField a) o)) ∧
  ∀ (d a : Reg) (o : BitVec 9) (s : State) (v : Word), s.readCell (s.effAddr a o) = some v →
    ((s.effAddr a o).toNat : Int) = ((s.x a).toNat + o.toInt) % 2 ^ 18 ∧
    ∃ t, exec (.lw d a o) s = .next t ∧ RegisterResult s t [a] d v

/-- R162, where the cell lies outside the program text (decision D19): `sw` replaces that one cell and nothing else. -/
def Obligations.StoreWord : Prop :=
  (∀ (d a b : BitVec 5) (o : BitVec 9),
    decodeWord (formatR 9 0 d a b o) = .ok (.sw (regOfField b) (regOfField a) o)) ∧
  ∀ (b a : Reg) (o : BitVec 9) (s : State), s.inText (s.effAddr a o) = false →
    ((s.effAddr a o).toNat : Int) = ((s.x a).toNat + o.toInt) % 2 ^ 18 ∧
    ∃ t, exec (.sw b a o) s = .next t ∧ t.readCell (s.effAddr a o) = some (s.x b) ∧
      SameMemoryBut s t (s.effAddr a o) ∧ SameRegsBut s t [] ∧ KeyboardAfter s t [a, b] ∧ SameCharChannel s t ∧
      SamePixelChannel s t ∧ SameRun s t ∧ t.pc = s.pc + 1

/-- R163, R225: `svga` to a ready pixel channel appends the word; to one that is not ready it faults (decision D17). -/
def Obligations.SendPixel : Prop :=
  (∀ (d a b : BitVec 5) (x : BitVec 9), decodeWord (formatR 9 1 d a b x) = .ok (.svga (regOfField b))) ∧
  ∀ (b : Reg) (s : State),
    (s.pixReady = true → ∃ t, exec (.svga b) s = .next t ∧ t.pixOut = s.pixOut ++ [s.x b] ∧ SameRegsBut s t [] ∧
      KeyboardAfter s t [b] ∧ SameMemory s t ∧ SameCharChannel s t ∧ SameRun s t ∧ t.pc = s.pc + 1) ∧
    (s.pixReady = false → exec (.svga b) s = .fault .pixelChannelNotReady)

/-- R172, where the cell lies outside the program text (decision D19): `push` stores at the low 18 bits of register 30 and
then decrements it; the stored value is the one before the instruction, register 30's too. -/
def Obligations.PushStoresThenDecrements : Prop :=
  (∀ (d b : BitVec 5) (x : BitVec 9), decodeWord (formatR 10 0 d 30 b x) = .ok (.push (regOfField b))) ∧
  (∀ (d a b : BitVec 5) (x : BitVec 9), a ≠ 30 → decodeWord (formatR 10 0 d a b x) = .error (.fixedField 10 0)) ∧
  ∀ (b : Reg) (s : State), s.inText s.pushAddr = false →
    s.pushAddr.toNat = s.sp.toNat % 2 ^ 18 ∧
    ∃ t, exec (.push b) s = .next t ∧ t.readCell s.pushAddr = some (s.x b) ∧ SameMemoryBut s t s.pushAddr ∧
      ((t.x .sp).toNat : Int) = ((s.x .sp).toNat - 1 : Int) % 2 ^ 32 ∧ SameRegsBut s t [.sp] ∧
      KeyboardAfter s t [b] ∧ SameCharChannel s t ∧ SamePixelChannel s t ∧ SameRun s t ∧ t.pc = s.pc + 1

/-- R173, R174, for both settings of `POP_ADDR_OFFSET` (decision D10), from a cell that holds a value: `pop` to any register
but 30 reads the cell, increments register 30 and writes the destination. -/
def Obligations.PopLoadsAndIncrements : Prop :=
  (∀ (d b : BitVec 5) (x : BitVec 9), decodeWord (formatR 11 0 d 30 b x) = .ok (.pop (regOfField d))) ∧
  (∀ (d a b : BitVec 5) (x : BitVec 9), a ≠ 30 → decodeWord (formatR 11 0 d a b x) = .error (.fixedField 11 0)) ∧
  ∀ (d : Reg) (s : State) (v : Word), d ≠ .sp → s.readCell s.popAddr = some v →
    s.popAddr.toNat = (s.sp.toNat + s.cfg.popAddrOffset.val) % 2 ^ 18 ∧
    ∃ t, exec (.pop d) s = .next t ∧ Receives s t d v ∧ (t.x .sp).toNat = ((s.x .sp).toNat + 1) % 2 ^ 32 ∧
      SameRegsBut s t [.sp, d] ∧ KeyboardAfter s t [] ∧ SameMemory s t ∧ SamePixelChannel s t ∧ SameRun s t ∧
      t.pc = s.pc + 1

/-- R173: `pop $30` is refused in every state (decision D24, log 12). -/
def Obligations.PopIntoStackPointerIsRefused : Prop :=
  ∀ s : State, exec (.pop .sp) s = .refused .popIntoStackPointer

/-- R175, with `POP_ADDR_OFFSET` = 1: a `push` and then a `pop` move the value and restore register 30. -/
def Obligations.PopUndoesPush : Prop :=
  ∀ (s : State) (b d : Reg), s.cfg.popAddrOffset = 1 → s.inText s.pushAddr = false → b ≠ .port → d ≠ .zero →
    d ≠ .port → d ≠ .sp →
    ∃ t u, exec (.push b) s = .next t ∧ exec (.pop d) t = .next u ∧ u.x d = s.x b ∧ u.x .sp = s.x .sp ∧
      u.readCell s.pushAddr = some (s.x b) ∧ SameRegsBut s u [d]

/-! ### Jumps and branches (47_jump.md, 48_branch.md) -/

/-- R181 (decision D3): `jr` goes to the low 18 bits of its register and changes nothing else. -/
def Obligations.JumpRegister : Prop :=
  (∀ (d a b : BitVec 5) (x : BitVec 9), decodeWord (formatR 7 0 d a b x) = .ok (.jr (regOfField a))) ∧
  ∀ (a : Reg) (s : State), ∃ t target, exec (.jr a) s = .next t ∧ OnlyPcMoves s t [a] target ∧
    target.toNat = (s.x a).toNat % 2 ^ 18

/-- R183, R184 (decisions D3, D6, D12): `jal` goes to its address and leaves `pc + 1` modulo 2^18 in register 31. -/
def Obligations.JumpAndLink : Prop :=
  (∀ (x : BitVec 1) (a : Addr), decodeWord (formatJ 7 1 31 x a) = .ok (.jal a)) ∧
  (∀ (d : BitVec 5) (x : BitVec 1) (a : Addr), d ≠ 31 → decodeWord (formatJ 7 1 d x a) = .error (.fixedField 7 1)) ∧
  ∀ (a : Addr) (s : State), ∃ t, exec (.jal a) s = .next t ∧ t.pc = a ∧
    (t.x .ra).toNat = (s.pc.toNat + 1) % 2 ^ 18 ∧ SameRegsBut s t [.ra] ∧ KeyboardAfter s t [] ∧ SameMemory s t ∧
    SameCharChannel s t ∧ SamePixelChannel s t ∧ SameRun s t

/-- R185: a `jr $31` in any state that still holds the link of a `jal` continues at the instruction after that `jal`. -/
def Obligations.ReturnFollowsCall : Prop :=
  ∀ (s t later : State) (a : Addr), exec (.jal a) s = .next t → later.x .ra = t.x .ra →
    ∃ u, exec (.jr .ra) later = .next u ∧ u.pc = s.pc + 1

/-- R192, R195: `br` always branches, `breq` when all 32 bits agree, to `pc + 1 + off14` modulo 2^18 (R191). -/
def Obligations.BranchAlwaysAndBranchEqual : Prop :=
  (∀ w : Word, opField w = 6 →
    (modeField w = 0 → decodeWord w = .ok (.br (off14Field w))) ∧
    (modeField w = 5 → decodeWord w = .ok (.breq (faReg w) (fbReg w) (off14Field w)))) ∧
  ∀ (a b : Reg) (o : BitVec 14) (s : State),
    (∃ t, exec (.br o) s = .next t ∧ BranchResult s t [] True o) ∧
    ∃ t, exec (.breq a b o) s = .next t ∧
      BranchResult s t [a, b] (∀ k < 32, (s.x a).getLsbD k = (s.x b).getLsbD k) o

/-- R193, R194, R199, for both settings of `BR_CMP_SIGNED` (decision D8); the offset's two fields by decision D7. -/
def Obligations.BranchGreaterAndBranchLess : Prop :=
  (∀ (o : BitVec 14) (a b : BitVec 5),
    decodeWord (formatB 6 1 o a b) = .ok (.brgt (regOfField a) (regOfField b) o) ∧
    decodeWord (formatB 6 2 o a b) = .ok (.brlt (regOfField a) (regOfField b) o)) ∧
  ∀ (a b : Reg) (o : BitVec 14) (s : State),
    (∃ t, exec (.brgt a b o) s = .next t ∧ BranchResult s t [a, b]
      (if s.cfg.brCmpSigned = true then (s.x a).toInt > (s.x b).toInt else (s.x a).toNat > (s.x b).toNat) o) ∧
    ∃ t, exec (.brlt a b o) s = .next t ∧ BranchResult s t [a, b]
      (if s.cfg.brCmpSigned = true then (s.x a).toInt < (s.x b).toInt else (s.x a).toNat < (s.x b).toNat) o

/-- R196 to R198: the device branches test one readiness each and change nothing but `pc`; `brchar` does not read
register 29. -/
def Obligations.DeviceBranchesTestReadiness : Prop :=
  (∀ w : Word, opField w = 6 →
    (modeField w = 3 → decodeWord w = .ok (.brchar (off14Field w))) ∧
    (modeField w = 4 → decodeWord w = .ok (.brvid (off14Field w))) ∧
    (modeField w = 6 → decodeWord w = .ok (.brpix (off14Field w)))) ∧
  ∀ (o : BitVec 14) (s : State),
    (∃ t, exec (.brchar o) s = .next t ∧ BranchResult s t [] (s.kbdReady = true) o) ∧
    (∃ t, exec (.brvid o) s = .next t ∧ BranchResult s t [] (s.vidReady = true) o) ∧
    ∃ t, exec (.brpix o) s = .next t ∧ BranchResult s t [] (s.pixReady = true) o

/-! ### Assembly text (30_encoding.md R109) -/

/-- R109 (decision D29): what the assembler places for a label at `t`. In a branch at `p` it is the offset by which that
branch goes from `p` to `t`, and the label is an error exactly when it is out of reach; in a `jal` it is the address `t`. A
label that is not declared is an error in both. -/
def Obligations.LabelOffsetReachesTheLabel : Prop :=
  ∀ (table : List (List Char × Nat)) (name : List Char) (p : Nat) (rest : List Stmt) (after : List Instr) (a b : Reg),
    resolve table (p + 1) rest = .ok after →
    ∀ branch ∈ [Instr.brgt a b, Instr.brlt a b, Instr.breq a b, Instr.br, Instr.brchar, Instr.brvid, Instr.brpix],
      (∀ t : Nat, lookupLabel table name = .ok t →
        (if -8192 ≤ (t : Int) - (p + 1) ∧ (t : Int) - (p + 1) ≤ 8191 then
          ∃ o, resolve table p (.branchTo (branch 0) name :: rest) = .ok (branch o :: after) ∧
            ∀ s : State, s.pc = BitVec.ofNat 18 p → IsBranchTarget s o (BitVec.ofNat 18 t)
        else resolve table p (.branchTo (branch 0) name :: rest) = .error .inappropriateOffset) ∧
        resolve table p (.jalTo name :: rest) = .ok (.jal (BitVec.ofNat 18 t) :: after)) ∧
      (lookupLabel table name = .error .undefinedLabel →
        resolve table p (.branchTo (branch 0) name :: rest) = .error .undefinedLabel ∧
        resolve table p (.jalTo name :: rest) = .error .undefinedLabel)

/-- Every word that assembly text gives decodes to the instruction it was assembled from. -/
def Obligations.AssembledWordsDecode : Prop :=
  ∀ (base : Addr) (text : List Char) (ws : List Word), assemble base text = .ok ws →
    ∃ is, assembleInstrs base text = .ok is ∧ ws.map decodeWord = is.map .ok
end

