-- ==== Sys2Proof/Laws/Encoding.lean ====
section
/-!
SUPPORT. The fields of a word written in one of the spec's formats (30_encoding.md R82 to R90) are the fields it was
written from, and a register's field names that register (R20).
-/

namespace Sys2Proof

/-- Concatenation as arithmetic. -/
theorem toNat_append_mul {m n : Nat} (x : BitVec m) (y : BitVec n) :
    (x ++ y).toNat = x.toNat * 2 ^ n + y.toNat := by
  rw [BitVec.toNat_append, ← Nat.shiftLeft_add_eq_or_of_lt y.isLt, Nat.shiftLeft_eq]

/-- A field as arithmetic. -/
theorem toNat_extract {n : Nat} (w : BitVec n) (lo len : Nat) :
    (w.extractLsb' lo len).toNat = w.toNat / 2 ^ lo % 2 ^ len := by
  simp [BitVec.extractLsb'_toNat, Nat.shiftRight_eq_div_pow]

theorem toNat_formatR (op mode : BitVec 4) (d a b : BitVec 5) (x : BitVec 9) :
    (formatR op mode d a b x).toNat = ((((op.toNat * 2 ^ 4 + mode.toNat) * 2 ^ 5 + d.toNat) * 2 ^ 5 + a.toNat) * 2 ^ 5 +
      b.toNat) * 2 ^ 9 + x.toNat := by
  simp only [formatR, toNat_append_mul]

theorem toNat_formatI (op mode : BitVec 4) (d : BitVec 5) (x : BitVec 3) (k : BitVec 16) :
    (formatI op mode d x k).toNat = (((op.toNat * 2 ^ 4 + mode.toNat) * 2 ^ 5 + d.toNat) * 2 ^ 3 + x.toNat) * 2 ^ 16 +
      k.toNat := by
  simp only [formatI, toNat_append_mul]

theorem toNat_formatJ (op mode : BitVec 4) (d : BitVec 5) (x : BitVec 1) (t : Addr) :
    (formatJ op mode d x t).toNat = (((op.toNat * 2 ^ 4 + mode.toNat) * 2 ^ 5 + d.toNat) * 2 ^ 1 + x.toNat) * 2 ^ 18 +
      t.toNat := by
  simp only [formatJ, toNat_append_mul]

section FormatR

variable (op mode : BitVec 4) (d a b : BitVec 5) (x : BitVec 9)

@[simp] theorem opField_formatR : opField (formatR op mode d a b x) = op := by
  apply BitVec.eq_of_toNat_eq
  rw [opField, toNat_extract, toNat_formatR]
  omega

@[simp] theorem modeField_formatR : modeField (formatR op mode d a b x) = mode := by
  apply BitVec.eq_of_toNat_eq
  rw [modeField, toNat_extract, toNat_formatR]
  omega

@[simp] theorem fdField_formatR : fdField (formatR op mode d a b x) = d := by
  apply BitVec.eq_of_toNat_eq
  rw [fdField, toNat_extract, toNat_formatR]
  omega

@[simp] theorem faField_formatR : faField (formatR op mode d a b x) = a := by
  apply BitVec.eq_of_toNat_eq
  rw [faField, toNat_extract, toNat_formatR]
  omega

@[simp] theorem fbField_formatR : fbField (formatR op mode d a b x) = b := by
  apply BitVec.eq_of_toNat_eq
  rw [fbField, toNat_extract, toNat_formatR]
  omega

@[simp] theorem off9Field_formatR : off9Field (formatR op mode d a b x) = x := by
  apply BitVec.eq_of_toNat_eq
  rw [off9Field, toNat_extract, toNat_formatR]
  omega

@[simp] theorem off14Field_formatR : off14Field (formatR op mode d a b x) = d ++ x := by
  simp [off14Field]

end FormatR

section FormatB

variable (op mode : BitVec 4) (o : BitVec 14) (a b : BitVec 5)

@[simp] theorem off14Field_formatB : off14Field (formatB op mode o a b) = o := by
  apply BitVec.eq_of_toNat_eq
  simp only [formatB, off14Field_formatR, toNat_append_mul, toNat_extract]
  omega

end FormatB

section FormatI

variable (op mode : BitVec 4) (d : BitVec 5) (x : BitVec 3) (k : BitVec 16)

@[simp] theorem opField_formatI : opField (formatI op mode d x k) = op := by
  apply BitVec.eq_of_toNat_eq
  rw [opField, toNat_extract, toNat_formatI]
  omega

@[simp] theorem modeField_formatI : modeField (formatI op mode d x k) = mode := by
  apply BitVec.eq_of_toNat_eq
  rw [modeField, toNat_extract, toNat_formatI]
  omega

@[simp] theorem fdField_formatI : fdField (formatI op mode d x k) = d := by
  apply BitVec.eq_of_toNat_eq
  rw [fdField, toNat_extract, toNat_formatI]
  omega

@[simp] theorem imm16Field_formatI : imm16Field (formatI op mode d x k) = k := by
  apply BitVec.eq_of_toNat_eq
  rw [imm16Field, toNat_extract, toNat_formatI]
  omega

end FormatI

section FormatJ

variable (op mode : BitVec 4) (d : BitVec 5) (x : BitVec 1) (t : Addr)

@[simp] theorem opField_formatJ : opField (formatJ op mode d x t) = op := by
  apply BitVec.eq_of_toNat_eq
  rw [opField, toNat_extract, toNat_formatJ]
  omega

@[simp] theorem modeField_formatJ : modeField (formatJ op mode d x t) = mode := by
  apply BitVec.eq_of_toNat_eq
  rw [modeField, toNat_extract, toNat_formatJ]
  omega

@[simp] theorem fdField_formatJ : fdField (formatJ op mode d x t) = d := by
  apply BitVec.eq_of_toNat_eq
  rw [fdField, toNat_extract, toNat_formatJ]
  omega

@[simp] theorem addr18Field_formatJ : addr18Field (formatJ op mode d x t) = t := by
  apply BitVec.eq_of_toNat_eq
  rw [addr18Field, toNat_extract, toNat_formatJ]
  omega

end FormatJ

/-- The field of a register names that register. -/
@[simp] theorem regOfField_field (r : Reg) : regOfField r.field = r := by
  cases r with
  | gpr i => exact (by decide : ∀ i : Fin 28, regOfField (Reg.gpr i).field = .gpr i) i
  | _ => rfl

/-- The register of a field has that field. -/
@[simp] theorem field_regOfField (f : BitVec 5) : (regOfField f).field = f := by
  exact (by decide : ∀ f : BitVec 5, (regOfField f).field = f) f

end Sys2Proof
end

