-- ==== Sys2Proof/Laws/Memory.lean ====
section
/-!
SUPPORT. The laws of memory as data: a read after a write, and that every write keeps the canonical form (20_memory.md R55,
R56).
-/

namespace Sys2Proof.Machine

@[simp] theorem Memory.read_nil (a : Nat) : Memory.read [] a = none := rfl

theorem Memory.read_cons (k : Nat) (v : Word) (m : Memory) (a : Nat) :
    Memory.read ((k, v) :: m) a = if k = a then some v else Memory.read m a := rfl

/-- A read after a write gives the value written at that cell, and what was there before at every other cell. -/
theorem Memory.read_write (m : Memory) (a : Nat) (v : Word) (b : Nat) :
    (Memory.write m a v).read b = if b = a then some v else m.read b := by
  induction m with
  | nil => simp [Memory.write, Memory.read_cons, eq_comm]
  | cons c m ih =>
    obtain ⟨k, u⟩ := c
    simp only [Memory.write]
    split
    · simp [Memory.read_cons, eq_comm]
    · split
      · next h =>
        subst h
        simp only [Memory.read_cons]
        by_cases hb : a = b <;> simp [hb, eq_comm]
      · next hne =>
        simp only [Memory.read_cons, ih]
        by_cases hk : k = b
        · have : b ≠ a := fun h => hne (by omega)
          simp [hk, this]
        · simp [hk]

theorem Memory.risingFrom_cons (lo k : Nat) (v : Word) (m : Memory) :
    Memory.risingFrom lo ((k, v) :: m) = true ↔ lo ≤ k ∧ k < 2 ^ 18 ∧ Memory.risingFrom (k + 1) m = true := by
  simp [Memory.risingFrom, and_assoc]

theorem Memory.risingFrom_write (m : Memory) (lo a : Nat) (v : Word) (hlo : lo ≤ a) (ha : a < 2 ^ 18)
    (h : Memory.risingFrom lo m = true) : Memory.risingFrom lo (Memory.write m a v) = true := by
  induction m generalizing lo with
  | nil => simp [Memory.write, Memory.risingFrom, hlo]; omega
  | cons c m ih =>
    obtain ⟨k, u⟩ := c
    obtain ⟨h1, h2, h3⟩ := (Memory.risingFrom_cons ..).1 h
    simp only [Memory.write]
    split
    · next hk => simp only [Memory.risingFrom_cons]; exact ⟨hlo, ha, by omega, h2, h3⟩
    · split
      · next hk => subst hk; exact (Memory.risingFrom_cons ..).2 ⟨hlo, ha, h3⟩
      · next hk => exact (Memory.risingFrom_cons ..).2 ⟨h1, h2, ih (k + 1) (by omega) h3⟩

/-- Writing a cell of the address space keeps the canonical form. -/
theorem Memory.wf_write (m : Memory) (a : Addr) (v : Word) (h : m.wf = true) :
    (Memory.write m a.toNat v).wf = true :=
  Memory.risingFrom_write m 0 a.toNat v (Nat.zero_le _) a.isLt h

@[simp] theorem Memory.wf_nil : Memory.wf [] = true := rfl

/-- A program image is in canonical form. -/
theorem Memory.wf_image (base : Addr) (text : List Word) : (Memory.image base text).wf = true := by
  induction text generalizing base with
  | nil => rfl
  | cons w ws ih => exact Memory.wf_write _ base w (ih (base + 1))

end Sys2Proof.Machine
end

