-- ==== Sys2Proof/Laws/State.lean ====
section
/-!
SUPPORT. What each update of the state does to each field: true by rfl, for simp, so that no later proof unfolds a record
update.
-/

namespace Sys2Proof.Machine

@[simp] theorem State.advance_gpr (s : State) : s.advance.gpr = s.gpr := rfl
@[simp] theorem State.advance_sp (s : State) : s.advance.sp = s.sp := rfl
@[simp] theorem State.advance_ra (s : State) : s.advance.ra = s.ra := rfl
@[simp] theorem State.advance_pc (s : State) : s.advance.pc = s.pc + 1 := rfl
@[simp] theorem State.advance_mem (s : State) : s.advance.mem = s.mem := rfl
@[simp] theorem State.advance_kbdReady (s : State) : s.advance.kbdReady = s.kbdReady := rfl
@[simp] theorem State.advance_kbdChar (s : State) : s.advance.kbdChar = s.kbdChar := rfl
@[simp] theorem State.advance_vidReady (s : State) : s.advance.vidReady = s.vidReady := rfl
@[simp] theorem State.advance_pixReady (s : State) : s.advance.pixReady = s.pixReady := rfl
@[simp] theorem State.advance_charOut (s : State) : s.advance.charOut = s.charOut := rfl
@[simp] theorem State.advance_pixOut (s : State) : s.advance.pixOut = s.pixOut := rfl
@[simp] theorem State.advance_cfg (s : State) : s.advance.cfg = s.cfg := rfl
@[simp] theorem State.advance_events (s : State) : s.advance.events = s.events := rfl
@[simp] theorem State.advance_draws (s : State) : s.advance.draws = s.draws := rfl

@[simp] theorem State.jumpTo_gpr (s : State) (target : Addr) : (s.jumpTo target).gpr = s.gpr := rfl
@[simp] theorem State.jumpTo_sp (s : State) (target : Addr) : (s.jumpTo target).sp = s.sp := rfl
@[simp] theorem State.jumpTo_ra (s : State) (target : Addr) : (s.jumpTo target).ra = s.ra := rfl
@[simp] theorem State.jumpTo_pc (s : State) (target : Addr) : (s.jumpTo target).pc = target := rfl
@[simp] theorem State.jumpTo_mem (s : State) (target : Addr) : (s.jumpTo target).mem = s.mem := rfl
@[simp] theorem State.jumpTo_kbdReady (s : State) (target : Addr) : (s.jumpTo target).kbdReady = s.kbdReady := rfl
@[simp] theorem State.jumpTo_kbdChar (s : State) (target : Addr) : (s.jumpTo target).kbdChar = s.kbdChar := rfl
@[simp] theorem State.jumpTo_vidReady (s : State) (target : Addr) : (s.jumpTo target).vidReady = s.vidReady := rfl
@[simp] theorem State.jumpTo_pixReady (s : State) (target : Addr) : (s.jumpTo target).pixReady = s.pixReady := rfl
@[simp] theorem State.jumpTo_charOut (s : State) (target : Addr) : (s.jumpTo target).charOut = s.charOut := rfl
@[simp] theorem State.jumpTo_pixOut (s : State) (target : Addr) : (s.jumpTo target).pixOut = s.pixOut := rfl
@[simp] theorem State.jumpTo_cfg (s : State) (target : Addr) : (s.jumpTo target).cfg = s.cfg := rfl
@[simp] theorem State.jumpTo_events (s : State) (target : Addr) : (s.jumpTo target).events = s.events := rfl
@[simp] theorem State.jumpTo_draws (s : State) (target : Addr) : (s.jumpTo target).draws = s.draws := rfl

@[simp] theorem State.kbdConsume_gpr (s : State) : s.kbdConsume.gpr = s.gpr := rfl
@[simp] theorem State.kbdConsume_sp (s : State) : s.kbdConsume.sp = s.sp := rfl
@[simp] theorem State.kbdConsume_ra (s : State) : s.kbdConsume.ra = s.ra := rfl
@[simp] theorem State.kbdConsume_pc (s : State) : s.kbdConsume.pc = s.pc := rfl
@[simp] theorem State.kbdConsume_mem (s : State) : s.kbdConsume.mem = s.mem := rfl
@[simp] theorem State.kbdConsume_kbdReady (s : State) : s.kbdConsume.kbdReady = false := rfl
@[simp] theorem State.kbdConsume_kbdChar (s : State) : s.kbdConsume.kbdChar = s.kbdChar := rfl
@[simp] theorem State.kbdConsume_vidReady (s : State) : s.kbdConsume.vidReady = s.vidReady := rfl
@[simp] theorem State.kbdConsume_pixReady (s : State) : s.kbdConsume.pixReady = s.pixReady := rfl
@[simp] theorem State.kbdConsume_charOut (s : State) : s.kbdConsume.charOut = s.charOut := rfl
@[simp] theorem State.kbdConsume_pixOut (s : State) : s.kbdConsume.pixOut = s.pixOut := rfl
@[simp] theorem State.kbdConsume_cfg (s : State) : s.kbdConsume.cfg = s.cfg := rfl
@[simp] theorem State.kbdConsume_events (s : State) : s.kbdConsume.events = s.events := rfl
@[simp] theorem State.kbdConsume_draws (s : State) : s.kbdConsume.draws = s.draws + 1 := rfl

@[simp] theorem State.setX_gpr_gpr (s : State) (i : Fin 28) (v : Word) : (s.setX (.gpr i) v).gpr = s.gpr.set i v := rfl
@[simp] theorem State.setX_gpr_sp (s : State) (i : Fin 28) (v : Word) : (s.setX (.gpr i) v).sp = s.sp := rfl
@[simp] theorem State.setX_gpr_ra (s : State) (i : Fin 28) (v : Word) : (s.setX (.gpr i) v).ra = s.ra := rfl
@[simp] theorem State.setX_gpr_pc (s : State) (i : Fin 28) (v : Word) : (s.setX (.gpr i) v).pc = s.pc := rfl
@[simp] theorem State.setX_gpr_mem (s : State) (i : Fin 28) (v : Word) : (s.setX (.gpr i) v).mem = s.mem := rfl
@[simp] theorem State.setX_gpr_kbdReady (s : State) (i : Fin 28) (v : Word) : (s.setX (.gpr i) v).kbdReady = s.kbdReady := rfl
@[simp] theorem State.setX_gpr_kbdChar (s : State) (i : Fin 28) (v : Word) : (s.setX (.gpr i) v).kbdChar = s.kbdChar := rfl
@[simp] theorem State.setX_gpr_vidReady (s : State) (i : Fin 28) (v : Word) : (s.setX (.gpr i) v).vidReady = s.vidReady := rfl
@[simp] theorem State.setX_gpr_pixReady (s : State) (i : Fin 28) (v : Word) : (s.setX (.gpr i) v).pixReady = s.pixReady := rfl
@[simp] theorem State.setX_gpr_charOut (s : State) (i : Fin 28) (v : Word) : (s.setX (.gpr i) v).charOut = s.charOut := rfl
@[simp] theorem State.setX_gpr_pixOut (s : State) (i : Fin 28) (v : Word) : (s.setX (.gpr i) v).pixOut = s.pixOut := rfl
@[simp] theorem State.setX_gpr_cfg (s : State) (i : Fin 28) (v : Word) : (s.setX (.gpr i) v).cfg = s.cfg := rfl
@[simp] theorem State.setX_gpr_events (s : State) (i : Fin 28) (v : Word) : (s.setX (.gpr i) v).events = s.events := rfl
@[simp] theorem State.setX_gpr_draws (s : State) (i : Fin 28) (v : Word) : (s.setX (.gpr i) v).draws = s.draws := rfl

@[simp] theorem State.setX_sp_gpr (s : State) (v : Word) : (s.setX .sp v).gpr = s.gpr := rfl
@[simp] theorem State.setX_sp_sp (s : State) (v : Word) : (s.setX .sp v).sp = v := rfl
@[simp] theorem State.setX_sp_ra (s : State) (v : Word) : (s.setX .sp v).ra = s.ra := rfl
@[simp] theorem State.setX_sp_pc (s : State) (v : Word) : (s.setX .sp v).pc = s.pc := rfl
@[simp] theorem State.setX_sp_mem (s : State) (v : Word) : (s.setX .sp v).mem = s.mem := rfl
@[simp] theorem State.setX_sp_kbdReady (s : State) (v : Word) : (s.setX .sp v).kbdReady = s.kbdReady := rfl
@[simp] theorem State.setX_sp_kbdChar (s : State) (v : Word) : (s.setX .sp v).kbdChar = s.kbdChar := rfl
@[simp] theorem State.setX_sp_vidReady (s : State) (v : Word) : (s.setX .sp v).vidReady = s.vidReady := rfl
@[simp] theorem State.setX_sp_pixReady (s : State) (v : Word) : (s.setX .sp v).pixReady = s.pixReady := rfl
@[simp] theorem State.setX_sp_charOut (s : State) (v : Word) : (s.setX .sp v).charOut = s.charOut := rfl
@[simp] theorem State.setX_sp_pixOut (s : State) (v : Word) : (s.setX .sp v).pixOut = s.pixOut := rfl
@[simp] theorem State.setX_sp_cfg (s : State) (v : Word) : (s.setX .sp v).cfg = s.cfg := rfl
@[simp] theorem State.setX_sp_events (s : State) (v : Word) : (s.setX .sp v).events = s.events := rfl
@[simp] theorem State.setX_sp_draws (s : State) (v : Word) : (s.setX .sp v).draws = s.draws := rfl

@[simp] theorem State.setX_ra_gpr (s : State) (v : Word) : (s.setX .ra v).gpr = s.gpr := rfl
@[simp] theorem State.setX_ra_sp (s : State) (v : Word) : (s.setX .ra v).sp = s.sp := rfl
@[simp] theorem State.setX_ra_ra (s : State) (v : Word) : (s.setX .ra v).ra = v := rfl
@[simp] theorem State.setX_ra_pc (s : State) (v : Word) : (s.setX .ra v).pc = s.pc := rfl
@[simp] theorem State.setX_ra_mem (s : State) (v : Word) : (s.setX .ra v).mem = s.mem := rfl
@[simp] theorem State.setX_ra_kbdReady (s : State) (v : Word) : (s.setX .ra v).kbdReady = s.kbdReady := rfl
@[simp] theorem State.setX_ra_kbdChar (s : State) (v : Word) : (s.setX .ra v).kbdChar = s.kbdChar := rfl
@[simp] theorem State.setX_ra_vidReady (s : State) (v : Word) : (s.setX .ra v).vidReady = s.vidReady := rfl
@[simp] theorem State.setX_ra_pixReady (s : State) (v : Word) : (s.setX .ra v).pixReady = s.pixReady := rfl
@[simp] theorem State.setX_ra_charOut (s : State) (v : Word) : (s.setX .ra v).charOut = s.charOut := rfl
@[simp] theorem State.setX_ra_pixOut (s : State) (v : Word) : (s.setX .ra v).pixOut = s.pixOut := rfl
@[simp] theorem State.setX_ra_cfg (s : State) (v : Word) : (s.setX .ra v).cfg = s.cfg := rfl
@[simp] theorem State.setX_ra_events (s : State) (v : Word) : (s.setX .ra v).events = s.events := rfl
@[simp] theorem State.setX_ra_draws (s : State) (v : Word) : (s.setX .ra v).draws = s.draws := rfl

@[simp] theorem State.placeWord_gpr (s : State) (w : Word) : (s.placeWord w).gpr = s.gpr := rfl
@[simp] theorem State.placeWord_sp (s : State) (w : Word) : (s.placeWord w).sp = s.sp := rfl
@[simp] theorem State.placeWord_ra (s : State) (w : Word) : (s.placeWord w).ra = s.ra := rfl
@[simp] theorem State.placeWord_pc (s : State) (w : Word) : (s.placeWord w).pc = s.pc := rfl
@[simp] theorem State.placeWord_mem (s : State) (w : Word) : (s.placeWord w).mem = s.mem.write s.pc.toNat w := rfl
@[simp] theorem State.placeWord_kbdReady (s : State) (w : Word) : (s.placeWord w).kbdReady = s.kbdReady := rfl
@[simp] theorem State.placeWord_kbdChar (s : State) (w : Word) : (s.placeWord w).kbdChar = s.kbdChar := rfl
@[simp] theorem State.placeWord_vidReady (s : State) (w : Word) : (s.placeWord w).vidReady = s.vidReady := rfl
@[simp] theorem State.placeWord_pixReady (s : State) (w : Word) : (s.placeWord w).pixReady = s.pixReady := rfl
@[simp] theorem State.placeWord_charOut (s : State) (w : Word) : (s.placeWord w).charOut = s.charOut := rfl
@[simp] theorem State.placeWord_pixOut (s : State) (w : Word) : (s.placeWord w).pixOut = s.pixOut := rfl
@[simp] theorem State.placeWord_events (s : State) (w : Word) : (s.placeWord w).events = s.events := rfl
@[simp] theorem State.placeWord_draws (s : State) (w : Word) : (s.placeWord w).draws = s.draws := rfl

@[simp] theorem State.deliver_key_gpr (s : State) (k : Key) (z : Bool) : (s.deliver (.keyPressed k z)).gpr = s.gpr := rfl
@[simp] theorem State.deliver_key_sp (s : State) (k : Key) (z : Bool) : (s.deliver (.keyPressed k z)).sp = s.sp := rfl
@[simp] theorem State.deliver_key_ra (s : State) (k : Key) (z : Bool) : (s.deliver (.keyPressed k z)).ra = s.ra := rfl
@[simp] theorem State.deliver_key_pc (s : State) (k : Key) (z : Bool) : (s.deliver (.keyPressed k z)).pc = s.pc := rfl
@[simp] theorem State.deliver_key_mem (s : State) (k : Key) (z : Bool) : (s.deliver (.keyPressed k z)).mem = s.mem := rfl
@[simp] theorem State.deliver_key_kbdReady (s : State) (k : Key) (z : Bool) : (s.deliver (.keyPressed k z)).kbdReady = if keyCode k = 0 then s.kbdReady || z else true := rfl
@[simp] theorem State.deliver_key_kbdChar (s : State) (k : Key) (z : Bool) : (s.deliver (.keyPressed k z)).kbdChar = keyCode k := rfl
@[simp] theorem State.deliver_key_vidReady (s : State) (k : Key) (z : Bool) : (s.deliver (.keyPressed k z)).vidReady = s.vidReady := rfl
@[simp] theorem State.deliver_key_pixReady (s : State) (k : Key) (z : Bool) : (s.deliver (.keyPressed k z)).pixReady = s.pixReady := rfl
@[simp] theorem State.deliver_key_charOut (s : State) (k : Key) (z : Bool) : (s.deliver (.keyPressed k z)).charOut = s.charOut := rfl
@[simp] theorem State.deliver_key_pixOut (s : State) (k : Key) (z : Bool) : (s.deliver (.keyPressed k z)).pixOut = s.pixOut := rfl
@[simp] theorem State.deliver_key_cfg (s : State) (k : Key) (z : Bool) : (s.deliver (.keyPressed k z)).cfg = s.cfg := rfl
@[simp] theorem State.deliver_key_events (s : State) (k : Key) (z : Bool) : (s.deliver (.keyPressed k z)).events = s.events := rfl
@[simp] theorem State.deliver_key_draws (s : State) (k : Key) (z : Bool) : (s.deliver (.keyPressed k z)).draws = s.draws := rfl

@[simp] theorem State.deliver_video_gpr (s : State) : (s.deliver .videoDrained).gpr = s.gpr := rfl
@[simp] theorem State.deliver_video_sp (s : State) : (s.deliver .videoDrained).sp = s.sp := rfl
@[simp] theorem State.deliver_video_ra (s : State) : (s.deliver .videoDrained).ra = s.ra := rfl
@[simp] theorem State.deliver_video_pc (s : State) : (s.deliver .videoDrained).pc = s.pc := rfl
@[simp] theorem State.deliver_video_mem (s : State) : (s.deliver .videoDrained).mem = s.mem := rfl
@[simp] theorem State.deliver_video_kbdReady (s : State) : (s.deliver .videoDrained).kbdReady = s.kbdReady := rfl
@[simp] theorem State.deliver_video_kbdChar (s : State) : (s.deliver .videoDrained).kbdChar = s.kbdChar := rfl
@[simp] theorem State.deliver_video_vidReady (s : State) : (s.deliver .videoDrained).vidReady = true := rfl
@[simp] theorem State.deliver_video_pixReady (s : State) : (s.deliver .videoDrained).pixReady = s.pixReady := rfl
@[simp] theorem State.deliver_video_charOut (s : State) : (s.deliver .videoDrained).charOut = s.charOut := rfl
@[simp] theorem State.deliver_video_pixOut (s : State) : (s.deliver .videoDrained).pixOut = s.pixOut := rfl
@[simp] theorem State.deliver_video_cfg (s : State) : (s.deliver .videoDrained).cfg = s.cfg := rfl
@[simp] theorem State.deliver_video_events (s : State) : (s.deliver .videoDrained).events = s.events := rfl
@[simp] theorem State.deliver_video_draws (s : State) : (s.deliver .videoDrained).draws = s.draws := rfl

@[simp] theorem State.deliver_pixels_gpr (s : State) : (s.deliver .pixelsDrained).gpr = s.gpr := rfl
@[simp] theorem State.deliver_pixels_sp (s : State) : (s.deliver .pixelsDrained).sp = s.sp := rfl
@[simp] theorem State.deliver_pixels_ra (s : State) : (s.deliver .pixelsDrained).ra = s.ra := rfl
@[simp] theorem State.deliver_pixels_pc (s : State) : (s.deliver .pixelsDrained).pc = s.pc := rfl
@[simp] theorem State.deliver_pixels_mem (s : State) : (s.deliver .pixelsDrained).mem = s.mem := rfl
@[simp] theorem State.deliver_pixels_kbdReady (s : State) : (s.deliver .pixelsDrained).kbdReady = s.kbdReady := rfl
@[simp] theorem State.deliver_pixels_kbdChar (s : State) : (s.deliver .pixelsDrained).kbdChar = s.kbdChar := rfl
@[simp] theorem State.deliver_pixels_vidReady (s : State) : (s.deliver .pixelsDrained).vidReady = s.vidReady := rfl
@[simp] theorem State.deliver_pixels_pixReady (s : State) : (s.deliver .pixelsDrained).pixReady = true := rfl
@[simp] theorem State.deliver_pixels_charOut (s : State) : (s.deliver .pixelsDrained).charOut = s.charOut := rfl
@[simp] theorem State.deliver_pixels_pixOut (s : State) : (s.deliver .pixelsDrained).pixOut = s.pixOut := rfl
@[simp] theorem State.deliver_pixels_cfg (s : State) : (s.deliver .pixelsDrained).cfg = s.cfg := rfl
@[simp] theorem State.deliver_pixels_events (s : State) : (s.deliver .pixelsDrained).events = s.events := rfl
@[simp] theorem State.deliver_pixels_draws (s : State) : (s.deliver .pixelsDrained).draws = s.draws := rfl

@[simp] theorem State.setX_zero (s : State) (v : Word) : s.setX .zero v = s := rfl

@[simp] theorem State.setX_port (s : State) (v : Word) : s.setX .port v = s.charWrite v := rfl

@[simp] theorem State.x_zero (s : State) : s.x .zero = 0 := rfl
@[simp] theorem State.x_gpr (s : State) (i : Fin 28) : s.x (.gpr i) = s.gpr.get i := rfl
@[simp] theorem State.x_port (s : State) : s.x .port = s.kbdValue := rfl
@[simp] theorem State.x_sp (s : State) : s.x .sp = s.sp := rfl
@[simp] theorem State.x_ra (s : State) : s.x .ra = s.ra := rfl

end Sys2Proof.Machine
end

