-- ==== Sys2Proof/Laws/Operands.lean ====
section
/-!
SUPPORT. What reading and writing registers can do (10_state.md R24, R25), said once for each operation.
-/

namespace Sys2Proof.Machine

theorem State.afterReads_eq (s : State) (srcs : List Reg) :
    s.afterReads srcs = if .port ∈ srcs then s.kbdConsume else s := by
  simp [State.afterReads]

/-- Reading registers touches nothing but the keyboard's readiness and the count of free values. -/
theorem State.afterReads_cases (s : State) (srcs : List Reg) :
    (.port ∈ srcs ∧ s.afterReads srcs = s.kbdConsume) ∨ (.port ∉ srcs ∧ s.afterReads srcs = s) := by
  rw [State.afterReads_eq]
  by_cases h : Reg.port ∈ srcs <;> simp [h]

/-- A character request is accepted by a ready channel and ignored by any other (R221). -/
theorem State.charWrite_cases (s : State) (v : Word) :
    (s.vidReady = true ∧ s.charWrite v =
      { s with
        charOut := s.charOut ++ [v.extractLsb' 0 8]
        vidReady := Config.vidReadyDraw s.draws
        draws := s.draws + 1 }) ∨
    (s.vidReady = false ∧ s.charWrite v = s) := by
  unfold State.charWrite
  cases s.vidReady <;> simp

/-- Writing register `d` leaves every other register as it was. -/
theorem State.x_setX_of_ne (s : State) (d r : Reg) (v : Word) (hr : r ≠ .port) (h : r ≠ d) :
    (s.setX d v).x r = s.x r := by
  cases d with
  | zero => rfl
  | port =>
    rcases s.charWrite_cases v with ⟨-, e⟩ | ⟨-, e⟩ <;> rw [State.setX_port, e]
    cases r <;> first | rfl | exact absurd rfl hr
  | gpr i =>
    cases r with
    | gpr j =>
      have : i ≠ j := fun e => h (by rw [e])
      have hv : i.val ≠ j.val := fun e => this (Fin.ext e)
      simp [Vector.get_eq_getElem, hv]
    | port => exact absurd rfl hr
    | _ => rfl
  | sp => cases r <;> first | rfl | exact absurd rfl hr | exact absurd rfl h
  | ra => cases r <;> first | rfl | exact absurd rfl hr | exact absurd rfl h

/-- A register that stores reads what was written to it (R22). -/
theorem State.x_setX_self (s : State) (d : Reg) (v : Word) (hz : d ≠ .zero) (hp : d ≠ .port) :
    (s.setX d v).x d = v := by
  cases d with
  | zero => exact absurd rfl hz
  | port => exact absurd rfl hp
  | gpr i => simp [Vector.get_eq_getElem]
  | sp => rfl
  | ra => rfl

/-- Writing a register changes nothing but that register, or the character channel and the count of free values. -/
theorem State.setX_other (s : State) (d : Reg) (v : Word) :
    (s.setX d v).pc = s.pc ∧ (s.setX d v).mem = s.mem ∧ (s.setX d v).kbdReady = s.kbdReady ∧
    (s.setX d v).kbdChar = s.kbdChar ∧ (s.setX d v).pixReady = s.pixReady ∧ (s.setX d v).pixOut = s.pixOut ∧
    (s.setX d v).cfg = s.cfg ∧ (s.setX d v).events = s.events := by
  cases d with
  | port => rcases s.charWrite_cases v with ⟨-, e⟩ | ⟨-, e⟩ <;> rw [State.setX_port, e] <;> simp
  | _ => simp

/-- The character channel after a register write (R25, R221). -/
theorem State.setX_chars (s : State) (d : Reg) (v : Word) :
    if d = .port ∧ s.vidReady = true then (s.setX d v).charOut = s.charOut ++ [v.extractLsb' 0 8]
    else SameCharChannel s (s.setX d v) := by
  cases d with
  | port =>
    rcases s.charWrite_cases v with ⟨h, e⟩ | ⟨h, e⟩ <;> rw [State.setX_port, e] <;> simp [h, SameCharChannel]
  | _ => simp [SameCharChannel]

/-- Reading registers leaves every register, the memory and the display as they were. -/
theorem State.afterReads_other (s : State) (srcs : List Reg) :
    (∀ r : Reg, r ≠ .port → (s.afterReads srcs).x r = s.x r) ∧ (s.afterReads srcs).pc = s.pc ∧
    (s.afterReads srcs).mem = s.mem ∧ (s.afterReads srcs).vidReady = s.vidReady ∧
    (s.afterReads srcs).charOut = s.charOut ∧ (s.afterReads srcs).pixReady = s.pixReady ∧
    (s.afterReads srcs).pixOut = s.pixOut ∧ (s.afterReads srcs).cfg = s.cfg ∧
    (s.afterReads srcs).events = s.events := by
  rcases s.afterReads_cases srcs with ⟨-, e⟩ | ⟨-, e⟩ <;> rw [e]
  · refine ⟨fun r hr => ?_, by simp⟩
    cases r <;> first | rfl | exact absurd rfl hr
  · simp

/-- The keyboard after an instruction's register reads (R219). -/
theorem State.afterReads_keyboard (s : State) (srcs : List Reg) : KeyboardAfter s (s.afterReads srcs) srcs := by
  rcases s.afterReads_cases srcs with ⟨h, e⟩ | ⟨h, e⟩ <;> rw [e] <;> simp [KeyboardAfter, h]

end Sys2Proof.Machine
end

