-- ==== Sys2Proof/Laws/Ops.lean ====
section
/-!
SUPPORT. Once for each shared operation: everything it can do. If it answers a next state, then which.
-/

namespace Sys2Proof.Machine

/-- Reading `srcs`, writing `v` to `d` and going on has exactly the observable effect of the register rules. -/
theorem State.registerResult (s : State) (srcs : List Reg) (d : Reg) (v : Word) :
    RegisterResult s (((s.afterReads srcs).setX d v).advance) srcs d v := by
  obtain ⟨hx, hpc, hmem, hvr, hco, hpr, hpo, hcfg, hev⟩ := s.afterReads_other srcs
  obtain ⟨epc, emem, ekr, ekc, epr, epo, ecfg, eev⟩ := (s.afterReads srcs).setX_other d v
  have hk := s.afterReads_keyboard srcs
  have hc := (s.afterReads srcs).setX_chars d v
  have xadv : ∀ (u : State) (r : Reg), u.advance.x r = u.x r := by
    intro u r
    cases r <;> rfl
  refine ⟨⟨fun hz hp => ?_, ?_⟩, fun r hr hd => ?_, ?_, fun a => ?_, ?_, ?_, ?_⟩
  · rw [xadv, State.x_setX_self _ _ _ hz hp]
  · rw [hvr, hco] at hc
    simpa [SameCharChannel, hvr, hco] using hc
  · rw [xadv, State.x_setX_of_ne _ _ _ _ hr (by simpa using hd), hx r hr]
  · exact ⟨by simp [ekc, hk.1], by simp [ekr, hk.2]⟩
  · simp [State.readCell, emem, hmem]
  · simp [SamePixelChannel, epo, epr, hpo, hpr]
  · simp [SameRun, ecfg, eev, hcfg, hev]
  · simp [epc, hpc]

/-- `State.result` always answers a next state, the one `State.registerResult` describes. -/
theorem State.result_spec (s : State) (srcs : List Reg) (d : Reg) (v : Word) :
    ∃ t, s.result srcs d v = .next t ∧ RegisterResult s t srcs d v :=
  ⟨_, rfl, s.registerResult srcs d v⟩

/-- Reading `srcs` and going to `target` changes nothing but `pc` and the keyboard. -/
theorem State.onlyPcMoves (s : State) (srcs : List Reg) (target : Addr) :
    OnlyPcMoves s ((s.afterReads srcs).jumpTo target) srcs target := by
  obtain ⟨hx, hpc, hmem, hvr, hco, hpr, hpo, hcfg, hev⟩ := s.afterReads_other srcs
  have hk := s.afterReads_keyboard srcs
  refine ⟨fun r hr _ => ?_, ⟨by simp [hk.1], by simp [hk.2]⟩, fun a => by simp [State.readCell, hmem],
    by simp [SameCharChannel, hco, hvr], by simp [SamePixelChannel, hpo, hpr], by simp [SameRun, hcfg, hev], rfl⟩
  rw [← hx r hr]
  cases r <;> rfl

/-- The branch target, as the integer of R191. -/
theorem State.branchTarget_spec (s : State) (off14 : BitVec 14) : IsBranchTarget s off14 (s.branchTarget off14) := by
  have h := BitVec.toInt_signExtend_of_le (x := off14) (v := 18) (by omega)
  have h2 := BitVec.toInt_eq_toNat_bmod (off14.signExtend 18)
  have h3 : s.pc.toNat < 2 ^ 18 := s.pc.isLt
  have h4 : (off14.signExtend 18).toNat < 2 ^ 18 := (off14.signExtend 18).isLt
  have h5 : (1 : Addr).toNat = 1 := rfl
  simp only [IsBranchTarget, State.branchTarget, BitVec.toNat_add, h5]
  rw [← h, h2, Int.bmod_def]
  split <;> omega

/-- `State.branch` always answers a next state, the one of R190. -/
theorem State.branch_spec (s : State) (srcs : List Reg) (taken : Bool) (off14 : BitVec 14) :
    ∃ t, s.branch srcs taken off14 = .next t ∧ BranchResult s t srcs (taken = true) off14 := by
  refine ⟨_, rfl, s.branchTarget off14, s.branchTarget_spec off14, ?_⟩
  cases taken
  · exact .inr ⟨by simp, s.onlyPcMoves srcs _⟩
  · exact .inl ⟨rfl, s.onlyPcMoves srcs _⟩

/-- A load goes on exactly when the cell holds a value (R55). -/
theorem State.withCell_next {s t : State} {a : Addr} {f : Word → State} (h : s.withCell a f = .next t) :
    ∃ v, s.readCell a = some v ∧ t = f v := by
  unfold State.withCell at h
  split at h
  · next v hv => exact ⟨v, hv, by simpa using h.symm⟩
  · cases h

/-- A store goes on exactly when the cell is outside the program text, and then writes that cell (R56, R66). -/
theorem State.storeCell_next {s t : State} {a : Addr} {v : Word} (h : s.storeCell a v = .next t) :
    s.inText a = false ∧ t = { s with mem := s.mem.write a.toNat v } := by
  unfold State.storeCell at h
  split at h
  · cases h
  · next hn => exact ⟨by simpa using hn, by simpa using h.symm⟩

/-- `svga` goes on exactly when the pixel channel is ready (R225). -/
theorem State.pixWrite_next {s t : State} {w : Word} (h : s.pixWrite w = .next t) :
    s.pixReady = true ∧ t =
      { s with
        pixOut := s.pixOut ++ [w]
        pixReady := Config.pixReadyDraw s.draws
        draws := s.draws + 1 } := by
  unfold State.pixWrite at h
  split at h
  · next hr => exact ⟨hr, by simpa using h.symm⟩
  · cases h

theorem onNext_next {o : Host.Outcome State Fault Refusal} {f : State → State} {t : State} (h : onNext o f = .next t) :
    ∃ u, o = .next u ∧ t = f u := by
  cases o with
  | next u => exact ⟨u, rfl, by simpa [onNext] using h.symm⟩
  | fault r => cases h
  | refused r => cases h

/-- A cell read after a store (R55, R56). -/
theorem State.readCell_write (s : State) (a b : Addr) (v : Word) :
    State.readCell { s with mem := s.mem.write a.toNat v } b = if b = a then some v else s.readCell b := by
  simp only [State.readCell, Memory.read_write, BitVec.toNat_inj]

/-! ### The environment's steps -/

/-- A device step touches nothing but the keyboard's and the two channels' readiness and `KBD_CHAR`, and it never clears a
readiness (R217, R224, R227). -/
theorem State.deliver_frame (s : State) (e : DeviceEvent) :
    (∀ r : Reg, r ≠ .port → (s.deliver e).x r = s.x r) ∧ (s.deliver e).pc = s.pc ∧ (s.deliver e).mem = s.mem ∧
    (s.deliver e).charOut = s.charOut ∧ (s.deliver e).pixOut = s.pixOut ∧ (s.deliver e).cfg = s.cfg ∧
    (s.deliver e).draws = s.draws ∧ (s.kbdReady = true → (s.deliver e).kbdReady = true) ∧
    (s.vidReady = true → (s.deliver e).vidReady = true) ∧ (s.pixReady = true → (s.deliver e).pixReady = true) := by
  refine ⟨fun r hr => ?_, ?_⟩
  · cases e <;> cases r <;> first | rfl | exact absurd rfl hr
  · cases e with
    | keyPressed k z => simp; intro h; simp [h]
    | videoDrained => simp
    | pixelsDrained => simp

/-- The same of all the device steps of one boundary. -/
theorem State.deliver_all_frame (es : List DeviceEvent) (s : State) :
    let t := es.foldl State.deliver s
    (∀ r : Reg, r ≠ .port → t.x r = s.x r) ∧ t.pc = s.pc ∧ t.mem = s.mem ∧
    t.charOut = s.charOut ∧ t.pixOut = s.pixOut ∧ t.cfg = s.cfg ∧ t.draws = s.draws ∧
    (s.kbdReady = true → t.kbdReady = true) ∧ (s.vidReady = true → t.vidReady = true) ∧
    (s.pixReady = true → t.pixReady = true) := by
  induction es generalizing s with
  | nil => simp
  | cons e es ih =>
    obtain ⟨a1, a2, a3, a4, a5, a6, a7, a8, a9, a10⟩ := s.deliver_frame e
    obtain ⟨b1, b2, b3, b4, b5, b6, b7, b8, b9, b10⟩ := ih (s.deliver e)
    exact ⟨fun r hr => (b1 r hr).trans (a1 r hr), b2.trans a2, b3.trans a3, b4.trans a4, b5.trans a5, b6.trans a6,
      b7.trans a7, fun h => b8 (a8 h), fun h => b9 (a9 h), fun h => b10 (a10 h)⟩

/-- What happens at an instruction boundary before the instruction (R216). -/
theorem State.boundary_frame (s : State) :
    (∀ r : Reg, r ≠ .port → s.boundary.x r = s.x r) ∧ s.boundary.pc = s.pc ∧ s.boundary.mem = s.mem ∧
    s.boundary.charOut = s.charOut ∧ s.boundary.pixOut = s.pixOut ∧ s.boundary.cfg = s.cfg ∧
    s.boundary.draws = s.draws ∧ (s.kbdReady = true → s.boundary.kbdReady = true) ∧
    (s.vidReady = true → s.boundary.vidReady = true) ∧ (s.pixReady = true → s.boundary.pixReady = true) := by
  unfold State.boundary
  split
  · simp
  · next now later _ =>
    obtain ⟨b1, b⟩ := State.deliver_all_frame now { s with events := later }
    refine ⟨fun r hr => (b1 r hr).trans ?_, b⟩
    cases r <;> rfl

/-! ### One step -/

/-- A next state comes either from the end of the run, which stays as it is, or from the instruction fetched after the
boundary. -/
theorem step_next {s t : State} (h : step s = .next t) :
    (s.ended = true ∧ t = s) ∨ (s.ended = false ∧ ∃ i, s.boundary.fetch = .ok i ∧ exec i s.boundary = .next t) := by
  unfold step at h
  split at h
  · next he => exact .inl ⟨he, by simpa using h.symm⟩
  · next he =>
    split at h
    · cases h
    · next i hi => exact .inr ⟨by simpa using he, i, hi, h⟩

/-- The instruction fetched is the one the word at `pc` decodes to. -/
theorem State.fetch_ok {s : State} {i : Instr} (h : s.fetch = .ok i) :
    ∃ w, s.readCell s.pc = some w ∧ decodeWord w = .ok i := by
  unfold State.fetch at h
  split at h
  · cases h
  · next w hw =>
    split at h
    · cases h
    · next j hj => exact ⟨w, hw, by simp_all⟩

end Sys2Proof.Machine
end

