-- ==== Sys2Proof/Laws/PerInstr.lean ====
section
/-!
SUPPORT. The per-instruction family RoundTrip: decoding the word of a well-formed instruction gives the instruction back
(30_encoding.md R94, R95).
-/

namespace Sys2Proof.Laws

def RoundTrip.Statement (i : Instr) : Prop := i.wellFormed = true → decodeWord (encode i) = .ok i

theorem RoundTrip.add (d : Reg) (a : Reg) (b : Reg) : RoundTrip.Statement (.add d a b) := by
  intro _
  simp [encode, decodeWord, fdReg, faReg, fbReg]

theorem RoundTrip.sub (d : Reg) (a : Reg) (b : Reg) : RoundTrip.Statement (.sub d a b) := by
  intro _
  simp [encode, decodeWord, fdReg, faReg, fbReg]

theorem RoundTrip.inc (d : Reg) (a : Reg) : RoundTrip.Statement (.inc d a) := by
  intro h
  have e : a = d := by simpa [Instr.wellFormed] using h
  subst e
  simp [encode, decodeWord, checkSrcIsDest, fdReg, faReg]

theorem RoundTrip.dec (d : Reg) (a : Reg) : RoundTrip.Statement (.dec d a) := by
  intro h
  have e : a = d := by simpa [Instr.wellFormed] using h
  subst e
  simp [encode, decodeWord, checkSrcIsDest, fdReg, faReg]

theorem RoundTrip.mult (d : Reg) (a : Reg) (b : Reg) : RoundTrip.Statement (.mult d a b) := by
  intro _
  simp [encode, decodeWord, fdReg, faReg, fbReg]

theorem RoundTrip.and (d : Reg) (a : Reg) (b : Reg) : RoundTrip.Statement (.and d a b) := by
  intro _
  simp [encode, decodeWord, fdReg, faReg, fbReg]

theorem RoundTrip.or (d : Reg) (a : Reg) (b : Reg) : RoundTrip.Statement (.or d a b) := by
  intro _
  simp [encode, decodeWord, fdReg, faReg, fbReg]

theorem RoundTrip.xor (d : Reg) (a : Reg) (b : Reg) : RoundTrip.Statement (.xor d a b) := by
  intro _
  simp [encode, decodeWord, fdReg, faReg, fbReg]

theorem RoundTrip.not (d : Reg) (a : Reg) : RoundTrip.Statement (.not d a) := by
  intro _
  simp [encode, decodeWord, fdReg, faReg]

theorem RoundTrip.sra (d : Reg) (a : Reg) (b : Reg) : RoundTrip.Statement (.sra d a b) := by
  intro _
  simp [encode, decodeWord, fdReg, faReg, fbReg]

theorem RoundTrip.srl (d : Reg) (a : Reg) (b : Reg) : RoundTrip.Statement (.srl d a b) := by
  intro _
  simp [encode, decodeWord, fdReg, faReg, fbReg]

theorem RoundTrip.sl (d : Reg) (a : Reg) (b : Reg) : RoundTrip.Statement (.sl d a b) := by
  intro _
  simp [encode, decodeWord, fdReg, faReg, fbReg]

theorem RoundTrip.rol (d : Reg) (a : Reg) (b : Reg) : RoundTrip.Statement (.rol d a b) := by
  intro _
  simp [encode, decodeWord, fdReg, faReg, fbReg]

theorem RoundTrip.ror (d : Reg) (a : Reg) (b : Reg) : RoundTrip.Statement (.ror d a b) := by
  intro _
  simp [encode, decodeWord, fdReg, faReg, fbReg]

theorem RoundTrip.nop : RoundTrip.Statement .nop := by
  intro _
  simp [encode, decodeWord, checkFixed]

theorem RoundTrip.lli (d : Reg) (k : BitVec 16) : RoundTrip.Statement (.lli d k) := by
  intro _
  simp [encode, decodeWord, fdReg]

theorem RoundTrip.lui (d : Reg) (k : BitVec 16) : RoundTrip.Statement (.lui d k) := by
  intro _
  simp [encode, decodeWord, fdReg]

theorem RoundTrip.lw (d : Reg) (a : Reg) (o : BitVec 9) : RoundTrip.Statement (.lw d a o) := by
  intro _
  simp [encode, decodeWord, fdReg, faReg]

theorem RoundTrip.sw (b : Reg) (a : Reg) (o : BitVec 9) : RoundTrip.Statement (.sw b a o) := by
  intro _
  simp [encode, decodeWord, faReg, fbReg]

theorem RoundTrip.svga (b : Reg) : RoundTrip.Statement (.svga b) := by
  intro _
  simp [encode, decodeWord, fbReg]

theorem RoundTrip.push (b : Reg) : RoundTrip.Statement (.push b) := by
  intro _
  simp [encode, decodeWord, checkFixed, fbReg]

theorem RoundTrip.pop (d : Reg) : RoundTrip.Statement (.pop d) := by
  intro _
  simp [encode, decodeWord, checkFixed, fdReg]

theorem RoundTrip.jr (a : Reg) : RoundTrip.Statement (.jr a) := by
  intro _
  simp [encode, decodeWord, faReg]

theorem RoundTrip.jal (t : Addr) : RoundTrip.Statement (.jal t) := by
  intro _
  simp [encode, decodeWord, checkFixed]

theorem RoundTrip.brgt (a : Reg) (b : Reg) (o : BitVec 14) : RoundTrip.Statement (.brgt a b o) := by
  intro _
  rw [encode, decodeWord, off14Field_formatB]
  simp [formatB, faReg, fbReg]

theorem RoundTrip.brlt (a : Reg) (b : Reg) (o : BitVec 14) : RoundTrip.Statement (.brlt a b o) := by
  intro _
  rw [encode, decodeWord, off14Field_formatB]
  simp [formatB, faReg, fbReg]

theorem RoundTrip.breq (a : Reg) (b : Reg) (o : BitVec 14) : RoundTrip.Statement (.breq a b o) := by
  intro _
  rw [encode, decodeWord, off14Field_formatB]
  simp [formatB, faReg, fbReg]

theorem RoundTrip.br (o : BitVec 14) : RoundTrip.Statement (.br o) := by
  intro _
  rw [encode, decodeWord, off14Field_formatB]
  simp [formatB]

theorem RoundTrip.brchar (o : BitVec 14) : RoundTrip.Statement (.brchar o) := by
  intro _
  rw [encode, decodeWord, off14Field_formatB]
  simp [formatB]

theorem RoundTrip.brvid (o : BitVec 14) : RoundTrip.Statement (.brvid o) := by
  intro _
  rw [encode, decodeWord, off14Field_formatB]
  simp [formatB]

theorem RoundTrip.brpix (o : BitVec 14) : RoundTrip.Statement (.brpix o) := by
  intro _
  rw [encode, decodeWord, off14Field_formatB]
  simp [formatB]

end Sys2Proof.Laws
end

