-- ==== Sys2Proof/Tests/Slice0.lean ====
section
/-!
SUPPORT. Tests of the model. Words and expected results come from the vectors of 95_test_vectors.md or by hand from the rule
a test names, never from the model. The last part gives, for each obligation with hypotheses, a state and operands that
meet them, named `witness_<obligation>`.
-/

namespace Sys2Proof.Tests

open Sys2Proof Sys2Proof.Machine

/-! ### Small states -/

/-- The machine before a one-instruction program at 0x100 (95_test_vectors.md, notation), with some registers and cells. -/
def at100 (w : Word) (regs : List (Reg × Word)) (cells : List (Addr × Word)) : State :=
  let s := regs.foldl (fun s p => s.setX p.1 p.2) (State.bootProgram 0x100 [w])
  { s with mem := cells.foldl (fun m c => m.write c.1.toNat c.2) s.mem }

/-- What a test looks at in the next state, if there is one. -/
def seen {α : Type} (o : Host.Outcome State Fault Refusal) (look : State → α) : Option α :=
  match o with
  | .next t => some (look t)
  | .fault _ => none
  | .refused _ => none

/-- Why a step stopped. -/
def stopOf (o : Host.Outcome State Fault Refusal) : Option (Fault ⊕ Refusal) :=
  match o with
  | .next _ => none
  | .fault f => some (.inl f)
  | .refused r => some (.inr r)

/-! ### WellFormed: the two forms that no word encodes (R98) -/

theorem test_wellFormed_refuses_inc : (Instr.inc (.gpr 6) (.gpr 1)).wellFormed = false := by decide

theorem test_wellFormed_refuses_dec : (Instr.dec .ra .sp).wellFormed = false := by decide

theorem test_wellFormed_accepts_inc : (Instr.inc (.gpr 6) (.gpr 6)).wellFormed = true := by decide

/-! ### Decoding: the words of 95_test_vectors.md section 2.1, every constructor -/

theorem test_decode_add : decodeWord 0x00088600 = .ok (.add (.gpr 0) (.gpr 1) (.gpr 2)) := rfl

theorem test_decode_sub : decodeWord 0x01214C00 = .ok (.sub (.gpr 3) (.gpr 4) (.gpr 5)) := rfl

theorem test_decode_inc : decodeWord 0x0239C000 = .ok (.inc (.gpr 6) (.gpr 6)) := rfl

theorem test_decode_dec : decodeWord 0x0339C000 = .ok (.dec (.gpr 6) (.gpr 6)) := rfl

theorem test_decode_mult : decodeWord 0x30088600 = .ok (.mult (.gpr 0) (.gpr 1) (.gpr 2)) := rfl

theorem test_decode_and : decodeWord 0x10088600 = .ok (.and (.gpr 0) (.gpr 1) (.gpr 2)) := rfl

theorem test_decode_or : decodeWord 0x11088600 = .ok (.or (.gpr 0) (.gpr 1) (.gpr 2)) := rfl

theorem test_decode_xor : decodeWord 0x1231D000 = .ok (.xor (.gpr 5) (.gpr 6) (.gpr 7)) := rfl

theorem test_decode_not : decodeWord 0x13088000 = .ok (.not (.gpr 0) (.gpr 1)) := rfl

theorem test_decode_sra : decodeWord 0x20088600 = .ok (.sra (.gpr 0) (.gpr 1) (.gpr 2)) := rfl

theorem test_decode_srl : decodeWord 0x21088600 = .ok (.srl (.gpr 0) (.gpr 1) (.gpr 2)) := rfl

theorem test_decode_sl : decodeWord 0x22088600 = .ok (.sl (.gpr 0) (.gpr 1) (.gpr 2)) := rfl

theorem test_decode_rol : decodeWord 0x23088600 = .ok (.rol (.gpr 0) (.gpr 1) (.gpr 2)) := rfl

theorem test_decode_ror : decodeWord 0x24088600 = .ok (.ror (.gpr 0) (.gpr 1) (.gpr 2)) := rfl

theorem test_decode_nop : decodeWord 0x40000000 = .ok (.nop) := rfl

theorem test_decode_lli : decodeWord 0x50081234 = .ok (.lli (.gpr 0) 0x1234) := rfl

theorem test_decode_lui : decodeWord 0x5108ABCD = .ok (.lui (.gpr 0) 0xABCD) := rfl

theorem test_decode_lw : decodeWord 0x800881FF = .ok (.lw (.gpr 0) (.gpr 1) (-1)) := rfl

theorem test_decode_sw : decodeWord 0x900087FC = .ok (.sw (.gpr 2) (.gpr 1) (-4)) := rfl

theorem test_decode_svga : decodeWord 0x91000A00 = .ok (.svga (.gpr 4)) := rfl

theorem test_decode_push : decodeWord 0xA0078A00 = .ok (.push (.gpr 4)) := rfl

theorem test_decode_pop : decodeWord 0xB0378000 = .ok (.pop (.gpr 5)) := rfl

theorem test_decode_jr : decodeWord 0x7007C000 = .ok (.jr .ra) := rfl

theorem test_decode_jal : decodeWord 0x71F92345 = .ok (.jal 0x12345) := rfl

theorem test_decode_brgt : decodeWord 0x61004403 = .ok (.brgt (.gpr 0) (.gpr 1) 3) := rfl

theorem test_decode_brlt : decodeWord 0x62F845FD = .ok (.brlt (.gpr 0) (.gpr 1) (-3)) := rfl

theorem test_decode_breq : decodeWord 0x65004064 = .ok (.breq (.gpr 0) .zero 100) := rfl

theorem test_decode_br : decodeWord 0x60080000 = .ok (.br 512) := rfl

theorem test_decode_brchar : decodeWord 0x63F801FF = .ok (.brchar (-1)) := rfl

theorem test_decode_brvid : decodeWord 0x64F801FF = .ok (.brvid (-1)) := rfl

theorem test_decode_brpix : decodeWord 0x66F801FF = .ok (.brpix (-1)) := rfl

/-! ### Reserved words, rejected by name, and don't-care fields (section 2.2) -/

theorem test_decode_undefined_pair : decodeWord 0x04000000 = .error (.undefinedPair 0 4) := rfl

theorem test_decode_undefined_op : decodeWord 0xFFFFFFFF = .error (.undefinedPair 15 15) := rfl

theorem test_decode_nop_fb : decodeWord 0x40000200 = .error (.fixedField 4 0) := rfl

theorem test_decode_push_fa : decodeWord 0xA0000A00 = .error (.fixedField 10 0) := rfl

theorem test_decode_pop_fa : decodeWord 0xB0300000 = .error (.fixedField 11 0) := rfl

theorem test_decode_jal_fd : decodeWord 0x71000001 = .error (.fixedField 7 1) := rfl

theorem test_decode_inc_fa : decodeWord 0x02388000 = .error (.srcNotDest 2) := rfl

theorem test_decode_all_zero : decodeWord 0x00000000 = .ok (.add .zero .zero .zero) := rfl

theorem test_decode_svga_dont_care : decodeWord 0x91EF4A00 = .ok (.svga (.gpr 4)) := rfl

theorem test_decode_jal_dont_care : decodeWord 0x71FC0001 = .ok (.jal 1) := rfl

theorem test_decode_jr_dont_care : decodeWord 0x70FFFFFF = .ok (.jr .ra) := rfl

theorem test_encode_negative_offset : encode (.breq (.gpr 0) .zero (-8192)) = 0x65804000 := by decide

theorem test_table_word : decodeTableWord 32 0x91000A00 = some (.svga (.gpr 4)) := by decide

theorem test_table_reserved : decodeTableWord 32 0x02388000 = none := by decide

/-- No word matches two rows of the opcode map: two rows differ in a bit that both masks hold. -/
theorem test_opcode_rows_disjoint :
    opcodeMap.Pairwise fun p q => (p.matchBits ^^^ q.matchBits) &&& (p.mask &&& q.mask) ≠ 0 := by decide

/-! ### One step (sections 3.1 to 3.9) -/

theorem test_add_carry_silent :
    seen (step (at100 0x00088600 [(.gpr 1, 0xFFFFFFFF), (.gpr 2, 0x1)] []))
      (fun t => (t.x (.gpr 0), t.pc)) = some (0, 0x101) := by decide

theorem test_add_to_zero :
    seen (step (at100 0x00008600 [(.gpr 1, 0x5), (.gpr 2, 0x6)] []))
      (fun t => (t.x .zero, t.x (.gpr 0), t.pc)) = some (0, 0, 0x101) := by decide

theorem test_sub_borrow :
    seen (step (at100 0x01214C00 [(.gpr 4, 0x3), (.gpr 5, 0x5)] []))
      (fun t => t.x (.gpr 3)) = some 0xFFFFFFFE := by decide

theorem test_inc_wraps :
    seen (step (at100 0x0239C000 [(.gpr 6, 0xFFFFFFFF)] []))
      (fun t => t.x (.gpr 6)) = some 0 := by decide

theorem test_dec_wraps :
    seen (step (at100 0x0339C000 [(.gpr 6, 0x0)] []))
      (fun t => t.x (.gpr 6)) = some 0xFFFFFFFF := by decide

theorem test_mult_signed :
    seen (step (at100 0x30088600 [(.gpr 1, 0x10003), (.gpr 2, 0xFFFF)] []))
      (fun t => t.x (.gpr 0)) = some 0xFFFFFFFD := by decide

theorem test_mult_unsigned :
    seen (step { at100 0x30088600 [(.gpr 1, 0x10003), (.gpr 2, 0xFFFF)] [] with cfg := { Config.default with multSigned := false } })
      (fun t => t.x (.gpr 0)) = some 0x0002FFFD := by decide

theorem test_and :
    seen (step (at100 0x10088600 [(.gpr 1, 0xFF00FF00), (.gpr 2, 0xFF00FF0)] []))
      (fun t => t.x (.gpr 0)) = some 0x0F000F00 := by decide

theorem test_or :
    seen (step (at100 0x11088600 [(.gpr 1, 0xFF00FF00), (.gpr 2, 0xFF00FF0)] []))
      (fun t => t.x (.gpr 0)) = some 0xFFF0FFF0 := by decide

theorem test_xor :
    seen (step (at100 0x1231D000 [(.gpr 6, 0xFF00FF00), (.gpr 7, 0xFF00FF0)] []))
      (fun t => t.x (.gpr 5)) = some 0xF0F0F0F0 := by decide

theorem test_not :
    seen (step (at100 0x13088000 [(.gpr 1, 0xFF00FF00)] []))
      (fun t => t.x (.gpr 0)) = some 0x00FF00FF := by decide

theorem test_sra_by_4 :
    seen (step (at100 0x20088600 [(.gpr 1, 0x80000013), (.gpr 2, 0x4)] []))
      (fun t => t.x (.gpr 0)) = some 0xF8000001 := by decide

theorem test_sra_low_five_bits :
    seen (step (at100 0x20088600 [(.gpr 1, 0x80000013), (.gpr 2, 0xFFFFFFE1)] []))
      (fun t => t.x (.gpr 0)) = some 0xC0000009 := by decide

theorem test_srl_by_4 :
    seen (step (at100 0x21088600 [(.gpr 1, 0x80000013), (.gpr 2, 0x4)] []))
      (fun t => t.x (.gpr 0)) = some 0x08000001 := by decide

theorem test_srl_low_five_bits :
    seen (step (at100 0x21088600 [(.gpr 1, 0x80000013), (.gpr 2, 0xFFFFFFE1)] []))
      (fun t => t.x (.gpr 0)) = some 0x40000009 := by decide

theorem test_sl_by_4 :
    seen (step (at100 0x22088600 [(.gpr 1, 0x80000013), (.gpr 2, 0x4)] []))
      (fun t => t.x (.gpr 0)) = some 0x00000130 := by decide

theorem test_sl_low_five_bits :
    seen (step (at100 0x22088600 [(.gpr 1, 0x80000013), (.gpr 2, 0xFFFFFFE1)] []))
      (fun t => t.x (.gpr 0)) = some 0x00000026 := by decide

theorem test_rol_by_4 :
    seen (step (at100 0x23088600 [(.gpr 1, 0x80000013), (.gpr 2, 0x4)] []))
      (fun t => t.x (.gpr 0)) = some 0x00000138 := by decide

theorem test_rol_low_five_bits :
    seen (step (at100 0x23088600 [(.gpr 1, 0x80000013), (.gpr 2, 0xFFFFFFE1)] []))
      (fun t => t.x (.gpr 0)) = some 0x00000027 := by decide

theorem test_ror_by_4 :
    seen (step (at100 0x24088600 [(.gpr 1, 0x80000013), (.gpr 2, 0x4)] []))
      (fun t => t.x (.gpr 0)) = some 0x38000001 := by decide

theorem test_ror_low_five_bits :
    seen (step (at100 0x24088600 [(.gpr 1, 0x80000013), (.gpr 2, 0xFFFFFFE1)] []))
      (fun t => t.x (.gpr 0)) = some 0xC0000009 := by decide

theorem test_nop :
    seen (step (at100 0x40000000 [(.gpr 0, 0x7)] []))
      (fun t => (t.x (.gpr 0), t.pc)) = some (7, 0x101) := by decide

theorem test_lli_keeps_upper :
    seen (step (at100 0x50081234 [(.gpr 0, 0xAAAA5555)] []))
      (fun t => t.x (.gpr 0)) = some 0xAAAA1234 := by decide

theorem test_lui_keeps_lower :
    seen (step (at100 0x5108ABCD [(.gpr 0, 0xAAAA5555)] []))
      (fun t => t.x (.gpr 0)) = some 0xABCD5555 := by decide

theorem test_lw_example_E1 :
    seen (step (at100 0x80088000 [(.gpr 1, 0x1247FFFF)] [(0x3FFFF, 0x22222222)]))
      (fun t => t.x (.gpr 0)) = some 0x22222222 := by decide

theorem test_lw_negative_wraps :
    seen (step (at100 0x80088100 [(.gpr 1, 0x0)] [(0x3FF00, 0x33333333)]))
      (fun t => t.x (.gpr 0)) = some 0x33333333 := by decide

theorem test_sw :
    seen (step (at100 0x900087FC [(.gpr 1, 0x200), (.gpr 2, 0xDEADBEEF)] []))
      (fun t => (t.readCell 0x1FC, t.readCell 0x1FD)) = some (some 0xDEADBEEF, none) := by decide

theorem test_svga :
    seen (step (at100 0x91000A00 [(.gpr 4, 0x123E0)] []))
      (fun t => (t.pixOut, t.pc)) = some ([0x123E0], 0x101) := by decide

theorem test_push_old_sp :
    seen (step (at100 0xA007BC00 [(.sp, 0x3FFFE)] []))
      (fun t => (t.readCell 0x3FFFE, t.x .sp)) = some (some 0x3FFFE, 0x3FFFD) := by decide

theorem test_pop_default :
    seen (step (at100 0xB0378000 [(.sp, 0x3FFFE)] [(0x3FFFE, 9), (0x3FFFF, 7)]))
      (fun t => (t.x (.gpr 5), t.x .sp)) = some (7, 0x3FFFF) := by decide

theorem test_pop_literal :
    seen (step { at100 0xB0378000 [(.sp, 0x3FFFE)] [(0x3FFFE, 9), (0x3FFFF, 7)] with cfg := { Config.default with popAddrOffset := 0 } })
      (fun t => (t.x (.gpr 5), t.x .sp)) = some (9, 0x3FFFF) := by decide

theorem test_jr_truncates :
    seen (step (at100 0x70014000 [(.gpr 4, 0xFFFC0123)] []))
      (fun t => t.pc) = some 0x123 := by decide

theorem test_jal_links :
    seen (step (at100 0x71F92345 [] []))
      (fun t => (t.pc, t.x .ra)) = some (0x12345, 0x101) := by decide

theorem test_brgt_signed :
    seen (step (at100 0x61004403 [(.gpr 0, 0x1), (.gpr 1, 0xFFFFFFFF)] []))
      (fun t => t.pc) = some 0x104 := by decide

theorem test_brgt_unsigned :
    seen (step { at100 0x61004403 [(.gpr 0, 0x1), (.gpr 1, 0xFFFFFFFF)] [] with cfg := { Config.default with brCmpSigned := false } })
      (fun t => t.pc) = some 0x101 := by decide

theorem test_brlt_taken :
    seen (step (at100 0x62F845FD [(.gpr 0, 0xFFFFFFFF), (.gpr 1, 0x0)] []))
      (fun t => t.pc) = some 0xFE := by decide

theorem test_brlt_equal :
    seen (step (at100 0x62F845FD [(.gpr 0, 0x5), (.gpr 1, 0x5)] []))
      (fun t => t.pc) = some 0x101 := by decide

theorem test_breq_taken :
    seen (step (at100 0x65804400 [(.gpr 0, 0xFFFFFFFF), (.gpr 1, 0xFFFFFFFF)] []))
      (fun t => t.pc) = some 0x3E101 := by decide

theorem test_breq_not_taken :
    seen (step (at100 0x65004064 [(.gpr 0, 0x1)] []))
      (fun t => t.pc) = some 0x101 := by decide

theorem test_br_back :
    seen (step (at100 0x60F801FF [] []))
      (fun t => t.pc) = some 0x100 := by decide

theorem test_br_low_bit_of_high_part :
    seen (step (at100 0x60080000 [] []))
      (fun t => t.pc) = some 0x301 := by decide

theorem test_brchar_no_key :
    seen (step (at100 0x63F801FF [] []))
      (fun t => t.pc) = some 0x101 := by decide

theorem test_brchar_key_pressed :
    seen (step { at100 0x63F801FF [] [] with events := [[.keyPressed .up false]] })
      (fun t => (t.pc, t.kbdReady, t.kbdChar)) = some (0x100, true, 0x38) := by decide

theorem test_brvid_not_ready :
    seen (step { at100 0x64F801FF [] [] with vidReady := false })
      (fun t => t.pc) = some 0x101 := by decide

theorem test_brpix_ready :
    seen (step (at100 0x66F801FF [] []))
      (fun t => (t.pc, t.pixReady)) = some (0x100, true) := by decide

theorem test_char_write : seen (step (at100 0x00E80600 [(.gpr 2, 0x0A41)] [])) (fun t => t.charOut) = some [0x41] := by
  decide

theorem test_char_ignored :
    seen (step { at100 0x00E80600 [(.gpr 2, 0x0A41)] [] with vidReady := false }) (fun t => (t.charOut, t.pc)) =
      some ([], 0x101) := by
  decide

theorem test_svga_not_ready :
    stopOf (step ({ at100 0x91000A00 [] [] with pixReady := false })) = some (.inl .pixelChannelNotReady) := by decide

theorem test_lw_valueless :
    stopOf (step (at100 0x80088000 [(.gpr 1, 0x300)] [])) = some (.inl (.cellWithoutValue 0x300)) := by decide

theorem test_sw_into_text :
    stopOf (step (at100 0x90008600 [(.gpr 1, 0x100)] [])) = some (.inr (.storeIntoText 0x100)) := by decide

theorem test_push_into_text :
    stopOf (step (at100 0xA0078000 [(.sp, 0x100)] [])) = some (.inr (.storeIntoText 0x100)) := by decide

theorem test_pop_sp :
    stopOf (step (at100 0xB0F78000 [] [])) = some (.inr .popIntoStackPointer) := by decide

theorem test_reserved :
    stopOf (step (at100 0x02388000 [] [])) = some (.inl (.reservedEncoding (.srcNotDest 2))) := by decide

theorem test_reset_fetches_nothing :
    stopOf (step (State.reset)) = some (.inl (.cellWithoutValue 0)) := by decide

theorem test_reserved_inc_term :
    stopOf (exec (.inc (.gpr 6) (.gpr 1)) State.reset) = some (.inl (.reservedEncoding (.srcNotDest 2))) := by decide

theorem test_reserved_dec_term :
    stopOf (exec (.dec (.gpr 6) (.gpr 1)) State.reset) = some (.inl (.reservedEncoding (.srcNotDest 3))) := by decide

theorem test_stop_is_final : seen (step { State.bootProgram 0x100 [0x40000000] with pc := 0x101 }) (fun t => t.pc) =
    some 0x101 := by
  decide

theorem test_withFetchWord : seen (step (State.reset.withFetchWord 32 0x50081234)) (fun t => (t.x (.gpr 0), t.pc)) =
    some (0x1234, 1) := by
  decide

/-! ### Assembly text (section 1, section 4) -/

theorem test_assemble_loop : (assemble 0 ":ULAB1\nbr ULAB1\nstop".toList).toOption = some [0x60F801FF] := by decide

theorem test_assemble_syntax :
    (assemble 0 "add R1 r2 r3\nxor $6, $7, $8 // E4\n".toList).toOption = some [0x00088600, 0x1231D000] := by decide

theorem test_assemble_hex_and_decimal :
    (assemble 0 "lli $1 1234h\nlli $1 1234".toList).toOption = some [0x50081234, 0x500804D2] := by decide

/-- R159: `10h` is 0x0010 and `10` is 0x000A; five digits are too many. -/
theorem test_assemble_short_hex :
    assemble 0 "lli $1 10h\nlli $1 10".toList = .ok [0x50080010, 0x5008000A] ∧
    assemble 0 "lli $1 00010h".toList = .error .badImmediate := ⟨rfl, rfl⟩

theorem test_assemble_case_matters : (assemble 0 ":ULAB1\nbr :ULAb1".toList).toOption = none := by decide

theorem test_assemble_div : (assemble 0 "div $1 $2 $3".toList).toOption = none := by decide

theorem test_assemble_offset_out_of_range : (assemble 0 "lw $1 $2 256".toList).toOption = none := by decide

/-- `stop` is a reserved word in any case, so it is no label (R111). -/
theorem test_assemble_stop_is_reserved : assemble 0 ":Stop\nbr Stop".toList = .error .reservedWord := rfl

theorem test_assemble_stray_commas :
    assemble 0 "add, $1 $2 $3".toList = .error .strayComma ∧ assemble 0 "add $1,, $2 $3".toList = .error .strayComma ∧
    assemble 0 "add $1 $2 $3,".toList = .error .strayComma ∧ assemble 0 ",".toList = .error .strayComma :=
  ⟨rfl, rfl, rfl, rfl⟩

theorem test_assemble_label_after_space : assemble 0 " :LOOP\nbr LOOP".toList = .error .badLabel := rfl

/-! ### Witnesses: states and operands that meet the hypotheses of the obligations -/

/-- A state with some registers, a stored cell and program text elsewhere than the data. -/
def busy : State :=
  at100 0x00088600 [(.gpr 1, 0x200), (.gpr 2, 0xFF), (.sp, 0x3FFFE), (.ra, 0x11)] [(0x200, 0x55), (0x3FFFF, 7)]

/-- `busy` with the key `A` waiting. -/
def keyed : State := { busy with kbdReady := true, kbdChar := 0x41 }

theorem witness_DecodeOfEncodeIsIdentity : (Instr.dec .sp .sp).wellFormed = true := by decide

theorem witness_DecodeFollowsOpcodeMap :
    (⟨"pop", 0xB0078000, 0xFF07C000⟩ : OpcodeRow) ∈ opcodeMap ∧
    OpcodeRow.matches ⟨"pop", 0xB0078000, 0xFF07C000⟩ 0xB0378001 = true ∧
    OpcodeRow.matches ⟨"pop", 0xB0078000, 0xFF07C000⟩ 0xB0300000 = false := by
  decide

theorem witness_MeaningDependsOnlyOnCareBits :
    decodeWord 0x91EF4A00 = .ok (.svga (.gpr 4)) ∧
    (0x91000A00 : Word) &&& careMask (.svga (.gpr 4)) = 0x91EF4A00 &&& careMask (.svga (.gpr 4)) :=
  ⟨rfl, by decide⟩

theorem witness_ReservedWordsFault :
    (∀ row ∈ opcodeMap, row.matches 0xA0000A00 = false) ∧ (at100 0xA0000A00 [] []).ended = false ∧
    (at100 0xA0000A00 [] []).readCell 0x100 = some 0xA0000A00 ∧
    decodeWord 0xA0000A00 = .error (.fixedField 10 0) :=
  ⟨by decide, by decide, by decide, rfl⟩

theorem witness_StepRunsDecodedInstruction :
    busy.ended = false ∧ busy.readCell busy.pc = some 0x00088600 ∧
    decodeWord 0x00088600 = .ok (.add (.gpr 0) (.gpr 1) (.gpr 2)) :=
  ⟨by decide, by decide, rfl⟩

theorem witness_RunEndsAtStopAddress :
    let s : State := { busy with pc := 0x101 }
    s.cfg.stopAddr = some s.pc := by
  decide

theorem witness_OnlyNamedRegistersChange :
    ∃ t, exec (.pop (.gpr 5)) busy = .next t ∧ t.x (.gpr 5) = 7 ∧ t.x (.gpr 1) = busy.x (.gpr 1) :=
  ⟨_, rfl, by decide⟩

theorem witness_OnlyNamedDevicesChange :
    (∃ t, exec (.push .port) keyed = .next t ∧ .port ∉ destRegs (.push .port)) ∧
    ∃ t, exec (.svga (.gpr 4)) busy = .next t :=
  ⟨⟨_, rfl, by decide⟩, ⟨_, rfl⟩⟩

theorem witness_PcAdvancesUnlessAssigned :
    ∃ t, exec .nop { busy with pc := 0x3FFFF } = .next t ∧ assignsPc .nop = false ∧ t.pc = 0 :=
  ⟨_, rfl, by decide⟩

theorem witness_StepKeepsTheParameters : ∃ t, step busy = .next t := ⟨_, rfl⟩

theorem witness_StepKeepsMemoryCanonical : busy.MemCanonical ∧ ∃ t, step busy = .next t :=
  ⟨rfl, _, rfl⟩

theorem witness_ProgramTextNeverChanges : ∃ t, core.run 2 busy = .next t ∧ busy.inText 0x100 = true :=
  ⟨_, rfl, by decide⟩

theorem witness_OnlyStoresChangeMemory :
    ∃ t, exec (.sw (.gpr 2) (.gpr 1) 0) busy = .next t ∧ storedTo busy (.sw (.gpr 2) (.gpr 1) 0) = some 0x200 ∧
      storedTo busy (.sw (.gpr 2) (.gpr 1) 0) ≠ some 0x3FFFF :=
  ⟨_, rfl, by decide, by decide⟩

theorem witness_StoreThenLoadReturnsTheValue :
    ∃ t, exec (.sw (.gpr 2) (.gpr 1) 0) busy = .next t ∧ t.effAddr (.gpr 1) 0 = busy.effAddr (.gpr 1) 0 ∧
      Reg.gpr 7 ≠ .zero ∧ Reg.gpr 7 ≠ .port :=
  ⟨_, rfl, by decide, by decide, by decide⟩

theorem witness_TruncatedAddressExample :
    let s := busy.setX (.gpr 3) 0x1247FFFF
    s.x (.gpr 3) + (0 : BitVec 9).signExtend 32 = 0x1247FFFF ∧ s.readCell 0x3FFFF = some 7 ∧ Reg.ra ≠ .zero ∧
      Reg.ra ≠ .port := by
  decide

theorem witness_ValuelessCellFaults :
    busy.readCell (busy.effAddr (.gpr 1) 1) = none ∧ Reg.gpr 0 ≠ .sp ∧
    (busy.setX .sp 0x300).readCell (busy.setX .sp 0x300).popAddr = none ∧
    State.reset.ended = false ∧ State.reset.readCell State.reset.pc = none := by
  decide

theorem witness_StoreIntoTextIsRefused :
    (busy.setX (.gpr 1) 0x101).inText ((busy.setX (.gpr 1) 0x101).effAddr (.gpr 1) (-1)) = true ∧
    (busy.setX .sp 0x40100).inText (busy.setX .sp 0x40100).pushAddr = true := by
  decide

theorem witness_CharacterWrite : busy.vidReady = true ∧ ({ busy with vidReady := false } : State).vidReady = false := by
  decide

theorem witness_KeyPress :
    ({ busy with events := [[.keyPressed .enter true]] } : State).events = [.keyPressed .enter true] :: [] ∧
    keyCode .enter ≠ 0 ∧
    ({ busy with events := [[.keyPressed .uncoded false]] } : State).events = [.keyPressed .uncoded false] :: [] ∧
    keyCode .uncoded = 0 ∧ (∀ k z, DeviceEvent.videoDrained ≠ .keyPressed k z) ∧
    ∃ t, exec .nop keyed = .next t ∧ t.kbdReady = true :=
  ⟨rfl, by decide, rfl, by decide, by simp, _, rfl, by decide⟩

theorem witness_ChannelsBecomeReady :
    ({ busy with events := [[.pixelsDrained, .keyPressed .up true], []] } : State).events =
      [.pixelsDrained, .keyPressed .up true] :: [[]] ∧
    State.reset.events = [] :=
  ⟨rfl, rfl⟩

/-- A key waits, one of the listed instructions, and a state without program text, where no address is in it. -/
theorem witness_OneKeyboardReadPerInstruction :
    keyed.kbdReady = true ∧ (∀ v : Word, (Instr.sub, (0 : Word)) ∈ [(Instr.add, v + v), (Instr.sub, 0)]) ∧
    ∀ v : Word, State.reset.inText (trunc18 (v + (0 : BitVec 9).signExtend 32)) = false :=
  ⟨by decide, by simp, fun _ => rfl⟩

theorem witness_MaskedKeyboardReadIsTheKey :
    keyed.kbdReady = true ∧ Reg.gpr 2 ≠ .port ∧ keyed.x (.gpr 2) = 0xFF ∧ Reg.gpr 0 ≠ .zero ∧ Reg.gpr 0 ≠ .port := by
  decide

theorem witness_ReadinessPersists :
    ∃ t, step keyed = .next t ∧ keyed.vidReady = true ∧ keyed.pixReady = true ∧ keyed.kbdReady = true :=
  ⟨_, rfl, by decide⟩

theorem witness_OutputOnlyAppends : ∃ t, core.run 2 busy = .next t := ⟨_, rfl⟩

/-- A polling branch and the instruction after it, in two cells. -/
def polling (poll use : Word) : State :=
  { State.bootProgram 0x100 [poll, use] with kbdReady := true, kbdChar := 0x41, gpr := busy.gpr }

theorem witness_PollThenUseIsSound_pixel :
    let s := polling 0x66000000 0x91000A00
    s.ended = false ∧ s.boundary.pixReady = true ∧ s.boundary.fetch = .ok (.brpix 0) ∧
    ∃ t, step s = .next t ∧ t.ended = false ∧ t.boundary.fetch = .ok (.svga (.gpr 4)) :=
  ⟨by decide, by decide, rfl, _, rfl, by decide, rfl⟩

theorem witness_PollThenUseIsSound_char :
    let s := polling 0x64000000 0x00E84000
    s.ended = false ∧ s.boundary.vidReady = true ∧ s.boundary.fetch = .ok (.brvid 0) ∧
    ∃ t, step s = .next t ∧ t.ended = false ∧ t.boundary.fetch = .ok (.add .port (.gpr 0) .zero) :=
  ⟨by decide, by decide, rfl, _, rfl, by decide, rfl⟩

theorem witness_PollThenUseIsSound_key :
    let s := polling 0x63000000 0x100F4600
    s.ended = false ∧ s.boundary.kbdReady = true ∧ s.boundary.fetch = .ok (.brchar 0) ∧
    ∃ t, step s = .next t ∧ t.ended = false ∧ t.boundary.fetch = .ok (.and (.gpr 0) .port (.gpr 2)) ∧
      t.x (.gpr 2) = 0xFF ∧ Reg.gpr 2 ≠ .port ∧ Reg.gpr 0 ≠ .zero ∧ Reg.gpr 0 ≠ .port :=
  ⟨by decide, by decide, rfl, _, rfl, by decide, rfl, by decide, by decide, by decide, by decide⟩

theorem witness_IncAndDecWrap : (30 : BitVec 5) ≠ 31 ∧ Reg.sp ≠ .ra := by decide

theorem witness_NopOnlyAdvances : ¬((0 : BitVec 5) = 0 ∧ (0 : BitVec 5) = 0 ∧ (1 : BitVec 5) = 0) := by decide

theorem witness_TwoImmediatesLoadAnyConstant : Reg.sp ≠ .zero ∧ Reg.sp ≠ .port := by decide

theorem witness_LoadWord : busy.readCell (busy.effAddr (.gpr 1) 0) = some 0x55 := by decide

/-- The cell just below the program text is outside it, the first and the last of the text are inside. -/
theorem witness_StoreWord :
    (busy.setX (.gpr 1) 0x100).inText ((busy.setX (.gpr 1) 0x100).effAddr (.gpr 1) (-1)) = false ∧
    (busy.setX (.gpr 1) 0x100).inText ((busy.setX (.gpr 1) 0x100).effAddr (.gpr 1) 0) = true ∧
    (busy.setX (.gpr 1) 0x100).inText ((busy.setX (.gpr 1) 0x100).effAddr (.gpr 1) 1) = false := by
  decide

theorem witness_SendPixel : busy.pixReady = true ∧ ({ busy with pixReady := false } : State).pixReady = false := by
  decide

theorem witness_PushStoresThenDecrements : (29 : BitVec 5) ≠ 30 ∧ busy.inText busy.pushAddr = false := by decide

theorem witness_PopLoadsAndIncrements :
    (31 : BitVec 5) ≠ 30 ∧ Reg.port ≠ .sp ∧ busy.readCell busy.popAddr = some 7 := by decide

theorem witness_PopUndoesPush :
    busy.cfg.popAddrOffset = 1 ∧ busy.inText busy.pushAddr = false ∧ Reg.sp ≠ .port ∧ Reg.gpr 0 ≠ .zero ∧
      Reg.gpr 0 ≠ .port ∧ Reg.gpr 0 ≠ .sp := by
  decide

theorem witness_JumpAndLink : (30 : BitVec 5) ≠ 31 := by decide

theorem witness_ReturnFollowsCall :
    ∃ t, exec (.jal 0x12345) busy = .next t ∧ ({ t with pc := 0x500, sp := 1 } : State).x .ra = t.x .ra :=
  ⟨_, rfl, rfl⟩

theorem witness_BranchAlwaysAndBranchEqual :
    opField 0x60F801FF = 6 ∧ modeField 0x60F801FF = 0 ∧ opField 0x65804000 = 6 ∧ modeField 0x65804000 = 5 := by
  decide

theorem witness_DeviceBranchesTestReadiness :
    opField 0x63F801FF = 6 ∧ modeField 0x63F801FF = 3 ∧ opField 0x64F801FF = 6 ∧ modeField 0x64F801FF = 4 ∧
    opField 0x66F801FF = 6 ∧ modeField 0x66F801FF = 6 := by
  decide

/-- The farthest labels a branch at 0x3000 reaches, the first it does not, and one that is not declared. -/
theorem witness_LabelOffsetReachesTheLabel :
    let table := [("LAST".toList, 0x5000), ("PIT".toList, 0x1001), ("OUT".toList, 0x5001)]
    ({ busy with pc := 0x3000 } : State).pc = BitVec.ofNat 18 0x3000 ∧
    resolve table (0x3000 + 1) [.instr .nop] = .ok [.nop] ∧
    lookupLabel table "LAST".toList = .ok 0x5000 ∧ lookupLabel table "PIT".toList = .ok 0x1001 ∧
    lookupLabel table "OUT".toList = .ok 0x5001 ∧ lookupLabel table "NONE".toList = .error .undefinedLabel ∧
    (0x5000 : Int) - (0x3000 + 1) = 8191 ∧ (0x1001 : Int) - (0x3000 + 1) = -8192 ∧
    (0x5001 : Int) - (0x3000 + 1) = 8192 :=
  ⟨by decide, rfl, rfl, rfl, rfl, rfl, by decide, by decide, by decide⟩

theorem witness_AssembledWordsDecode : assemble 0 "inc $7\nbr 0".toList = .ok [0x0239C000, 0x60000000] := by rfl

end Sys2Proof.Tests
end

section
/-!
What `exec` can do to the state, said once for all 31 instructions: claims over every instruction (frames, invariants)
are case analyses of `ExecEffect` and need not go through the instructions again.
-/

namespace Sys2Proof.Machine

/-- What an instruction that goes on to a next state has done to `s`: seven shapes. The shapes shared by several
instructions leave open the value written, the target of the jump and the guards of one instruction only (the equal fields
of `inc` and `dec`, the cell `lw` reads); the others are exact, guards included. -/
inductive ExecEffect (s : State) : Instr → State → Prop
  /-- Writes one register (`nop` writes register 0) and goes on to `pc + 1`. -/
  | register {i : Instr} {d : Reg} (v : Word) (hd : destRegs i = [d] ∨ d = .zero ∧ destRegs i = [])
      (hpc : assignsPc i = false) (hst : storedTo s i = none) :
      ExecEffect s i ((s.afterReads (sourceRegs i)).setX d v).advance
  /-- Writes no register but `pc`: `jr` and the branches. -/
  | jump {i : Instr} (target : Addr) (hd : destRegs i = []) (hpc : assignsPc i = true) (hst : storedTo s i = none) :
      ExecEffect s i ((s.afterReads (sourceRegs i)).jumpTo target)
  | jal (target : Addr) : ExecEffect s (.jal target) ((s.setX .ra ((s.pc + 1).zeroExtend 32)).jumpTo target)
  | sw {b a : Reg} {o : BitVec 9} (htext : s.inText (s.effAddr a o) = false) :
      ExecEffect s (.sw b a o)
        (State.advance { s.afterReads [a, b] with
          mem := (s.afterReads [a, b]).mem.write (s.effAddr a o).toNat (s.x b) })
  | svga {b : Reg} (hready : s.pixReady = true) :
      ExecEffect s (.svga b)
        (State.advance { s.afterReads [b] with
          pixOut := (s.afterReads [b]).pixOut ++ [s.x b]
          pixReady := Config.pixReadyDraw (s.afterReads [b]).draws
          draws := (s.afterReads [b]).draws + 1 })
  | push {b : Reg} (htext : s.inText s.pushAddr = false) :
      ExecEffect s (.push b)
        ((State.setX { s.afterReads [b] with
          mem := (s.afterReads [b]).mem.write s.pushAddr.toNat (s.x b) } .sp (s.sp - 1)).advance)
  | pop {d : Reg} {v : Word} (hd : d ≠ .sp) (hcell : s.readCell s.popAddr = some v) :
      ExecEffect s (.pop d) ((s.setX .sp (s.sp + 1)).setX d v).advance

/-! ### What register reads and writes leave unchanged -/

@[simp] theorem State.setX_cfg (s : State) (d : Reg) (v : Word) : (s.setX d v).cfg = s.cfg := by
  obtain ⟨-, -, -, -, -, -, hcfg, -⟩ := s.setX_other d v
  exact hcfg

@[simp] theorem State.setX_events (s : State) (d : Reg) (v : Word) : (s.setX d v).events = s.events := by
  obtain ⟨-, -, -, -, -, -, -, hev⟩ := s.setX_other d v
  exact hev

@[simp] theorem State.afterReads_cfg (s : State) (srcs : List Reg) : (s.afterReads srcs).cfg = s.cfg := by
  obtain ⟨-, -, -, -, -, -, -, hcfg, -⟩ := s.afterReads_other srcs
  exact hcfg

@[simp] theorem State.afterReads_events (s : State) (srcs : List Reg) : (s.afterReads srcs).events = s.events := by
  obtain ⟨-, -, -, -, -, -, -, -, hev⟩ := s.afterReads_other srcs
  exact hev

@[simp] theorem State.afterReads_pixReady (s : State) (srcs : List Reg) :
    (s.afterReads srcs).pixReady = s.pixReady := by
  obtain ⟨-, -, -, -, -, hpr, -, -, -⟩ := s.afterReads_other srcs
  exact hpr

/-- `TEXT_RANGE` is a parameter of the run, so register reads do not move it. -/
@[simp] theorem State.inText_afterReads (s : State) (srcs : List Reg) (a : Addr) :
    (s.afterReads srcs).inText a = s.inText a := by
  simp only [State.inText, State.afterReads_cfg]

/-! ### The shared operations, as effects -/

theorem ExecEffect.of_result {s t : State} {i : Instr} {d : Reg} {v : Word}
    (h : s.result (sourceRegs i) d v = .next t) (hd : destRegs i = [d] ∨ d = .zero ∧ destRegs i = [])
    (hpc : assignsPc i = false) (hst : storedTo s i = none) : ExecEffect s i t := by
  cases h
  exact .register v hd hpc hst

theorem ExecEffect.of_branch {s t : State} {i : Instr} {taken : Bool} {off14 : BitVec 14}
    (h : s.branch (sourceRegs i) taken off14 = .next t) (hd : destRegs i = []) (hpc : assignsPc i = true)
    (hst : storedTo s i = none) : ExecEffect s i t := by
  cases h
  exact .jump _ hd hpc hst

/-! ### The instructions that can stop -/

theorem execInc_effect {d a : Reg} {s t : State} (h : execInc d a s = .next t) : ExecEffect s (.inc d a) t := by
  unfold execInc at h
  split at h
  · exact .of_result h (.inl rfl) rfl rfl
  · cases h

theorem execDec_effect {d a : Reg} {s t : State} (h : execDec d a s = .next t) : ExecEffect s (.dec d a) t := by
  unfold execDec at h
  split at h
  · exact .of_result h (.inl rfl) rfl rfl
  · cases h

theorem execLw_effect {d a : Reg} {o : BitVec 9} {s t : State} (h : execLw d a o s = .next t) :
    ExecEffect s (.lw d a o) t := by
  obtain ⟨v, -, rfl⟩ := State.withCell_next h
  exact .register v (.inl rfl) rfl rfl

theorem execSw_effect {b a : Reg} {o : BitVec 9} {s t : State} (h : execSw b a o s = .next t) :
    ExecEffect s (.sw b a o) t := by
  obtain ⟨u, hu, rfl⟩ := onNext_next h
  obtain ⟨htext, rfl⟩ := State.storeCell_next hu
  exact .sw (by simpa using htext)

theorem execSvga_effect {b : Reg} {s t : State} (h : execSvga b s = .next t) : ExecEffect s (.svga b) t := by
  obtain ⟨u, hu, rfl⟩ := onNext_next h
  obtain ⟨hready, rfl⟩ := State.pixWrite_next hu
  exact .svga (by simpa using hready)

theorem execPush_effect {b : Reg} {s t : State} (h : execPush b s = .next t) : ExecEffect s (.push b) t := by
  obtain ⟨u, hu, rfl⟩ := onNext_next h
  obtain ⟨htext, rfl⟩ := State.storeCell_next hu
  exact .push (by simpa using htext)

theorem execPop_effect {d : Reg} {s t : State} (h : execPop d s = .next t) : ExecEffect s (.pop d) t := by
  unfold execPop at h
  split at h
  · cases h
  · next hd =>
    obtain ⟨v, hcell, rfl⟩ := State.withCell_next h
    exact .pop hd hcell

/-! ### Every instruction -/

/-- The inversion of `exec`: a next state is the instruction's effect. -/
theorem exec_effect {i : Instr} {s t : State} (h : exec i s = .next t) : ExecEffect s i t := by
  cases i with
  | add | sub | mult | and | or | xor | not | sra | srl | sl | rol | ror | lli | lui =>
    exact .of_result h (.inl rfl) rfl rfl
  | nop => exact .of_result h (.inr ⟨rfl, rfl⟩) rfl rfl
  | brgt | brlt | breq | br | brchar | brvid | brpix => exact .of_branch h rfl rfl rfl
  | jr a =>
    cases h
    exact .jump (i := .jr a) _ rfl rfl rfl
  | jal target =>
    cases h
    exact .jal target
  | inc => exact execInc_effect h
  | dec => exact execDec_effect h
  | lw => exact execLw_effect h
  | sw => exact execSw_effect h
  | svga => exact execSvga_effect h
  | push => exact execPush_effect h
  | pop => exact execPop_effect h

end Sys2Proof.Machine
end

section
/-!
The open parameters of a run (00_scope.md R9): no instruction, no device step and so no step changes them.
-/

namespace Sys2Proof.Machine

@[simp] theorem State.boundary_cfg (s : State) : s.boundary.cfg = s.cfg := by
  obtain ⟨-, -, -, -, -, hcfg, -⟩ := s.boundary_frame
  exact hcfg

/-- Every effect is made of register reads and writes, a store, a pixel request and a move of `pc`; none of them touches
the parameters or the pending device events. -/
theorem ExecEffect.sameRun {s t : State} {i : Instr} (h : ExecEffect s i t) : SameRun s t := by
  cases h <;> simp [SameRun]

theorem exec_sameRun {s t : State} {i : Instr} (h : exec i s = .next t) : SameRun s t := (exec_effect h).sameRun

/-- Settles O12: at the end of a run the state stays as it is; elsewhere the boundary keeps the parameters, and so does
the instruction that follows it. -/
theorem stepKeepsTheParameters : Obligations.StepKeepsTheParameters := by
  intro s t h
  rcases step_next h with ⟨-, rfl⟩ | ⟨-, i, -, hexec⟩
  · rfl
  · obtain ⟨hcfg, -⟩ := exec_sameRun hexec
    calc t.cfg = s.boundary.cfg := hcfg
      _ = s.cfg := s.boundary_cfg

end Sys2Proof.Machine
end

section
/-!
What `pc`, the registers and the count of free values are after each operation of the state (10_state.md R22 to R30),
and from these rules what every instruction leaves as it was.
-/

namespace Sys2Proof.Machine

@[simp] theorem State.setX_pc (s : State) (d : Reg) (v : Word) : (s.setX d v).pc = s.pc := by
  obtain ⟨hpc, -⟩ := s.setX_other d v
  exact hpc

@[simp] theorem State.afterReads_pc (s : State) (srcs : List Reg) : (s.afterReads srcs).pc = s.pc := by
  obtain ⟨-, hpc, -⟩ := s.afterReads_other srcs
  exact hpc

theorem State.afterReads_draws (s : State) (srcs : List Reg) :
    (s.afterReads srcs).draws = s.draws + if .port ∈ srcs then 1 else 0 := by
  rcases s.afterReads_cases srcs with ⟨h, e⟩ | ⟨h, e⟩ <;> simp [h, e]

@[simp] theorem State.afterReads_vidReady (s : State) (srcs : List Reg) :
    (s.afterReads srcs).vidReady = s.vidReady := by
  obtain ⟨-, -, -, hvr, -⟩ := s.afterReads_other srcs
  exact hvr

@[simp] theorem State.afterReads_mem (s : State) (srcs : List Reg) : (s.afterReads srcs).mem = s.mem := by
  obtain ⟨-, -, hmem, -⟩ := s.afterReads_other srcs
  exact hmem

/-- A register write uses a free value only for a character that is accepted (R221, D16). -/
theorem State.setX_draws (s : State) (d : Reg) (v : Word) :
    (s.setX d v).draws = s.draws + if d = .port ∧ s.vidReady = true then 1 else 0 := by
  cases d with
  | port => rcases s.charWrite_cases v with ⟨h, e⟩ | ⟨h, e⟩ <;> simp [h, e]
  | _ => simp

/-- Every register but 29 is stored in `gpr`, `sp` and `ra`, so an update of other fields does not change its value. -/
theorem State.x_congr {s t : State} {r : Reg} (hr : r ≠ .port) (hgpr : t.gpr = s.gpr) (hsp : t.sp = s.sp)
    (hra : t.ra = s.ra) : t.x r = s.x r := by
  cases r with
  | zero => rfl
  | gpr i => simp [hgpr]
  | port => exact absurd rfl hr
  | sp => exact hsp
  | ra => exact hra

@[simp] theorem State.x_advance (s : State) (r : Reg) : s.advance.x r = s.x r := by cases r <;> rfl

@[simp] theorem State.x_jumpTo (s : State) (target : Addr) (r : Reg) : (s.jumpTo target).x r = s.x r := by
  cases r <;> rfl

theorem State.x_afterReads (s : State) (srcs : List Reg) {r : Reg} (hr : r ≠ .port) :
    (s.afterReads srcs).x r = s.x r := by
  obtain ⟨hx, -⟩ := s.afterReads_other srcs
  exact hx r hr

/-! ### Over all instructions -/

theorem ExecEffect.sameRegsBut {s t : State} {i : Instr} (h : ExecEffect s i t) : SameRegsBut s t (destRegs i) := by
  intro r hr hnot
  cases h with
  | @register _ d v hd =>
    rw [State.x_advance]
    rcases hd with hd | ⟨rfl, -⟩
    · have hne : r ≠ d := by simpa [hd] using hnot
      rw [State.x_setX_of_ne _ _ _ _ hr hne, s.x_afterReads _ hr]
    · rw [State.setX_zero, s.x_afterReads _ hr]
  | jump target => rw [State.x_jumpTo, s.x_afterReads _ hr]
  | jal target =>
    have hne : r ≠ .ra := by simpa [destRegs] using hnot
    rw [State.x_jumpTo, State.x_setX_of_ne _ _ _ _ hr hne]
  | @sw b a =>
    rw [State.x_advance, ← s.x_afterReads [a, b] hr]
    exact State.x_congr hr rfl rfl rfl
  | @svga b =>
    rw [State.x_advance, ← s.x_afterReads [b] hr]
    exact State.x_congr hr rfl rfl rfl
  | @push b =>
    have hne : r ≠ .sp := by simpa [destRegs] using hnot
    rw [State.x_advance, State.x_setX_of_ne _ _ _ _ hr hne, ← s.x_afterReads [b] hr]
    exact State.x_congr hr rfl rfl rfl
  | @pop d =>
    obtain ⟨hsp, hd⟩ : r ≠ .sp ∧ r ≠ d := by simpa [destRegs] using hnot
    rw [State.x_advance, State.x_setX_of_ne _ _ _ _ hr hd, State.x_setX_of_ne _ _ _ _ hr hsp]

theorem ExecEffect.pc_of_not_assignsPc {s t : State} {i : Instr} (h : ExecEffect s i t) (hi : assignsPc i = false) :
    t.pc = s.pc + 1 := by
  cases h with
  | jump _ _ hpc => simp [hpc] at hi
  | jal => simp [assignsPc] at hi
  | register | sw | svga | push | pop => simp

/-- Settles O9: whichever of the seven effects the instruction has, it writes the registers it names only. -/
theorem onlyNamedRegistersChange : Obligations.OnlyNamedRegistersChange :=
  fun _ _ _ h => (exec_effect h).sameRegsBut

/-- Settles O11: the effects of instructions that do not assign `pc` all end with `State.advance`, and the addition of
18-bit addresses wraps. -/
theorem pcAdvancesUnlessAssigned : Obligations.PcAdvancesUnlessAssigned := by
  intro i s t h hi
  rw [(exec_effect h).pc_of_not_assignsPc hi, BitVec.toNat_add]
  rfl

end Sys2Proof.Machine
end

section
/-!
An instruction with register 29 in both source fields (10_state.md R24, decision D15): it makes one keyboard read, so it
has the effect of an instruction that names register 29 once, and both operands are the one value `State.kbdValue`.
-/

namespace Sys2Proof.Machine

/-! ### The one read -/

/-- R219: bits 7:0 of a keyboard read are the key, if one waits. -/
theorem State.kbdValue_low8 (s : State) (h : s.kbdReady = true) : s.kbdValue.extractLsb' 0 8 = s.kbdChar := by
  simp only [State.kbdValue, h, if_true]
  exact BitVec.extractLsb'_append_eq_right

/-- The side effect of the reads depends on whether register 29 is among them, not on how often (R218). -/
theorem State.afterReads_port_port (s : State) : s.afterReads [.port, .port] = s.afterReads [.port] := by
  simp [State.afterReads_eq]

/-! ### The shared operations with register 29 read twice -/

theorem State.result_port_port (s : State) (d : Reg) (v : Word) :
    ∃ t, s.result [.port, .port] d v = .next t ∧ RegisterResult s t [.port] d v ∧
      t.draws = s.draws + if d = .port ∧ s.vidReady = true then 2 else 1 := by
  refine ⟨_, rfl, ?_, ?_⟩
  · rw [State.afterReads_port_port]
    exact s.registerResult [.port] d v
  · simp only [State.advance_draws, State.setX_draws, State.afterReads_draws, State.afterReads_vidReady,
      List.mem_cons, true_or, if_true]
    split <;> rfl

theorem State.branch_port_port (s : State) {taken : Bool} {cond : Prop} (h : taken = true ↔ cond) (o : BitVec 14) :
    ∃ t, s.branch [.port, .port] taken o = .next t ∧ BranchResult s t [.port] cond o ∧ t.draws = s.draws + 1 := by
  obtain rfl := propext h
  obtain ⟨t, ht, hres⟩ := s.branch_spec [.port] taken o
  refine ⟨t, ?_, hres, ?_⟩
  · rw [← ht, State.branch, State.branch, State.afterReads_port_port]
  · cases ht
    simp [State.afterReads_draws]

/-! ### Stores that go on -/

/-- A store outside the program text goes on and writes that cell (R56, R66). -/
theorem State.storeCell_of_not_inText {s : State} {a : Addr} (v : Word) (h : s.inText a = false) :
    s.storeCell a v = .next { s with mem := s.mem.write a.toNat v } := by
  simp [State.storeCell, h]

/-- R162, outside the program text: the cell holds the value, the rest of memory is as before, and what is left is the
side effect of the reads. -/
theorem exec_sw_spec {s : State} {b a : Reg} {o : BitVec 9} (h : s.inText (s.effAddr a o) = false) :
    ∃ t, exec (.sw b a o) s = .next t ∧ t.readCell (s.effAddr a o) = some (s.x b) ∧
      SameMemoryBut s t (s.effAddr a o) ∧ KeyboardAfter s t [a, b] ∧ t.draws = (s.afterReads [a, b]).draws := by
  have hstore := State.storeCell_of_not_inText (s := s.afterReads [a, b]) (s.x b)
    ((s.inText_afterReads _ _).trans h)
  have hread (c : Addr) := (s.afterReads [a, b]).readCell_write (s.effAddr a o) c (s.x b)
  refine ⟨_, congrArg (onNext · State.advance) hstore, ?_, fun c hc => ?_, s.afterReads_keyboard [a, b], rfl⟩
  · exact (hread _).trans (if_pos rfl)
  · calc _ = (s.afterReads [a, b]).readCell c := (hread c).trans (if_neg hc)
      _ = s.readCell c := by simp [State.readCell]

/-! ### The values of the two-source forms -/

/-- The shift amount is the register modulo 32 (R140). -/
theorem State.shiftAmount_eq (s : State) (r : Reg) : s.shiftAmount r = (s.x r).toNat % 32 := by
  simp [State.shiftAmount, BitVec.extractLsb'_toNat]

theorem State.shiftAmount_lt (s : State) (r : Reg) : s.shiftAmount r < 32 := by
  rw [s.shiftAmount_eq]
  exact Nat.mod_lt _ (by decide)

theorem rotateWordLeft_eq_rotateLeft (a : Word) {n : Nat} (hn : n < 32) : rotateWordLeft a n = a.rotateLeft n := by
  rw [rotateWordLeft, BitVec.rotateLeft_def, Nat.mod_eq_of_lt hn]
  split
  · next h => simp [h, BitVec.ushiftRight_eq_zero]
  · rfl

theorem rotateWordRight_eq_rotateRight (a : Word) {n : Nat} (hn : n < 32) :
    rotateWordRight a n = a.rotateRight n := by
  rw [rotateWordRight, BitVec.rotateRight_def, Nat.mod_eq_of_lt hn]
  split
  · next h => simp [h, BitVec.shiftLeft_eq_zero]
  · rfl

theorem not_condGreater_self (cmpSigned : Bool) (v : Word) : condGreater cmpSigned v v = false := by
  simp [condGreater, BitVec.slt, BitVec.ult]

theorem not_condLess_self (cmpSigned : Bool) (v : Word) : condLess cmpSigned v v = false := by
  simp [condLess, BitVec.slt, BitVec.ult]

theorem condEqual_self (v : Word) : condEqual v v = true := by
  simp [condEqual]

/-- The register forms with two sources, and the result each has when both sources hold `v`. -/
def sameSourceForms (multSigned : Bool) (v : Word) : List ((Reg → Reg → Reg → Instr) × Word) :=
  [ (Instr.add, v + v), (Instr.sub, 0), (Instr.and, v), (Instr.or, v), (Instr.xor, 0),
    (Instr.sra, v.sshiftRight (v.toNat % 32)), (Instr.srl, v >>> (v.toNat % 32)),
    (Instr.sl, v <<< (v.toNat % 32)), (Instr.rol, v.rotateLeft (v.toNat % 32)),
    (Instr.ror, v.rotateRight (v.toNat % 32)), (Instr.mult, multProduct multSigned v v) ]

/-- Each of the forms, with one register in both source fields, writes the result that `sameSourceForms` lists. -/
theorem exec_sameSource {s : State} {f : Reg → Reg → Reg → Instr} {r : Reg} {result : Word}
    (h : (f, result) ∈ sameSourceForms s.cfg.multSigned (s.x r)) (d : Reg) :
    exec (f d r r) s = s.result [r, r] d result := by
  simp only [sameSourceForms, List.mem_cons, Prod.mk.injEq, List.not_mem_nil, or_false] at h
  rcases h with ⟨rfl, rfl⟩ | ⟨rfl, rfl⟩ | ⟨rfl, rfl⟩ | ⟨rfl, rfl⟩ | ⟨rfl, rfl⟩ | ⟨rfl, rfl⟩ | ⟨rfl, rfl⟩ | ⟨rfl, rfl⟩ |
    ⟨rfl, rfl⟩ | ⟨rfl, rfl⟩ | ⟨rfl, rfl⟩
  all_goals refine congrArg (s.result [r, r] d) ?_
  · show s.x r + s.x r = _
    rfl
  · show s.x r - s.x r = 0
    exact BitVec.sub_self _
  · show s.x r &&& s.x r = _
    exact BitVec.and_self
  · show s.x r ||| s.x r = _
    exact BitVec.or_self
  · show s.x r ^^^ s.x r = 0
    exact BitVec.xor_self
  · show (s.x r).sshiftRight (s.shiftAmount r) = _
    rw [s.shiftAmount_eq]
  · show s.x r >>> s.shiftAmount r = _
    rw [s.shiftAmount_eq]
  · show s.x r <<< s.shiftAmount r = _
    rw [s.shiftAmount_eq]
  · show rotateWordLeft (s.x r) (s.shiftAmount r) = _
    rw [rotateWordLeft_eq_rotateLeft _ (s.shiftAmount_lt r), s.shiftAmount_eq]
  · show rotateWordRight (s.x r) (s.shiftAmount r) = _
    rw [rotateWordRight_eq_rotateRight _ (s.shiftAmount_lt r), s.shiftAmount_eq]
  · show multProduct s.cfg.multSigned (s.x r) (s.x r) = _
    rfl

/-- Settles O25: the one value is `State.kbdValue`; each form is one of the shared operations with register 29 read
twice, and the branches compare the value with itself. -/
theorem oneKeyboardReadPerInstruction : Obligations.OneKeyboardReadPerInstruction := by
  intro s
  refine ⟨s.kbdValue, s.kbdValue_low8, ?_, ?_, ?_⟩
  · intro d f result hmem
    rw [exec_sameSource (s := s) (r := .port) hmem d]
    exact s.result_port_port d result
  · intro o htext
    obtain ⟨t, hexec, hcell, hmem, hkbd, hdraws⟩ := exec_sw_spec (s := s) (b := .port) (a := .port) (o := o) htext
    refine ⟨t, hexec, hcell, hmem, ?_, ?_⟩
    · simpa [KeyboardAfter] using hkbd
    · simpa [State.afterReads_draws] using hdraws
  · intro o
    exact ⟨s.branch_port_port (by simp [not_condGreater_self]) o, s.branch_port_port (by simp [not_condLess_self]) o,
      s.branch_port_port (by simp [condEqual_self]) o⟩

end Sys2Proof.Machine
end

section
/-!
Register 0 (10_state.md R21) and the state after reset (R38).
-/

namespace Sys2Proof.Machine

/-- Settles O8: register 0 has no field in the state, so nothing stands for what it reads or for a write to it. -/
theorem registerZeroIsHardwired : Obligations.RegisterZeroIsHardwired :=
  fun s v => ⟨s.x_zero, s.setX_zero v⟩

/-- Log 1: every register that stores is 0 after reset, and register 0 is 0 in any state. -/
theorem State.x_reset {r : Reg} (hr : r ≠ .port) : State.reset.x r = 0 := by
  cases r with
  | gpr i => simp [State.reset, State.boot, Vector.get_eq_getElem]
  | port => exact absurd rfl hr
  | zero | sp | ra => rfl

/-- Log 5: nothing is loaded at reset, so no cell holds a value. -/
theorem State.readCell_reset (a : Addr) : State.reset.readCell a = none := Memory.read_nil a.toNat

/-- Settles O13: the registers and the cells by their lemmas, each other field by the definition of `State.reset`. -/
theorem resetState : Obligations.ResetState :=
  ⟨rfl, fun _ hr => State.x_reset hr, State.readCell_reset, rfl, rfl, rfl, rfl, rfl, rfl, rfl, rfl, rfl, rfl, rfl, rfl⟩

end Sys2Proof.Machine
end

section
/-!
The memory over steps and runs (20_memory.md R50 to R66): what an instruction does to it, said once, and from that its
canonical form, its frame, and the program text.
-/

namespace Sys2Proof.Machine

@[simp] theorem State.setX_mem (s : State) (d : Reg) (v : Word) : (s.setX d v).mem = s.mem := by
  obtain ⟨-, hmem, -⟩ := s.setX_other d v
  exact hmem

@[simp] theorem State.boundary_pc (s : State) : s.boundary.pc = s.pc := by
  obtain ⟨-, hpc, -⟩ := s.boundary_frame
  exact hpc

@[simp] theorem State.boundary_mem (s : State) : s.boundary.mem = s.mem := by
  obtain ⟨-, -, hmem, -⟩ := s.boundary_frame
  exact hmem

theorem State.readCell_congr {s t : State} (h : t.mem = s.mem) (a : Addr) : t.readCell a = s.readCell a := by
  rw [State.readCell, State.readCell, h]

theorem State.inText_congr {s t : State} (h : t.cfg = s.cfg) (a : Addr) : t.inText a = s.inText a := by
  rw [State.inText, State.inText, h]

@[simp] theorem State.readCell_boundary (s : State) (a : Addr) : s.boundary.readCell a = s.readCell a :=
  State.readCell_congr s.boundary_mem a

@[simp] theorem State.inText_boundary (s : State) (a : Addr) : s.boundary.inText a = s.inText a :=
  State.inText_congr s.boundary_cfg a

/-! ### What an instruction does to memory -/

/-- An instruction leaves memory alone, or makes the one write of `sw` and `push`, to a cell outside the program text. -/
theorem ExecEffect.mem_cases {s t : State} {i : Instr} (h : ExecEffect s i t) :
    (storedTo s i = none ∧ t.mem = s.mem) ∨
    ∃ a v, storedTo s i = some a ∧ s.inText a = false ∧ t.mem = s.mem.write a.toNat v := by
  cases h with
  | register _ _ _ hst | jump _ _ _ hst => exact .inl ⟨hst, by simp⟩
  | jal | svga | pop => exact .inl ⟨rfl, by simp⟩
  | @sw b a o htext => exact .inr ⟨s.effAddr a o, s.x b, rfl, htext, by simp⟩
  | @push b htext => exact .inr ⟨s.pushAddr, s.x b, rfl, htext, by simp⟩

theorem exec_memCanonical {s t : State} {i : Instr} (hs : s.MemCanonical) (h : exec i s = .next t) :
    t.MemCanonical := by
  unfold State.MemCanonical
  rcases (exec_effect h).mem_cases with ⟨-, hmem⟩ | ⟨a, v, -, -, hmem⟩ <;> rw [hmem]
  · exact hs
  · exact Memory.wf_write s.mem a v hs

/-- Settles O14: the end of a run and the device events leave memory alone, and an instruction at most writes one cell
of the address space. -/
theorem stepKeepsMemoryCanonical : Obligations.StepKeepsMemoryCanonical := by
  intro s t hs h
  rcases step_next h with ⟨-, rfl⟩ | ⟨-, i, -, hexec⟩
  · exact hs
  · have hb : s.boundary.MemCanonical := (congrArg Memory.wf s.boundary_mem).trans hs
    exact exec_memCanonical hb hexec

/-- Settles O17: an instruction that stores nothing leaves memory as it is, and a store changes the cell written only. -/
theorem onlyStoresChangeMemory : Obligations.OnlyStoresChangeMemory := by
  intro i s t h
  rcases (exec_effect h).mem_cases with ⟨hst, hmem⟩ | ⟨c, v, hst, htext, hmem⟩
  · exact ⟨fun a _ => State.readCell_congr hmem a, fun a ha => by simp [hst] at ha⟩
  · refine ⟨fun a hne => ?_, fun a ha => ?_⟩
    · have hac : a ≠ c := by
        rintro rfl
        exact hne hst
      calc t.readCell a = State.readCell { s with mem := s.mem.write c.toNat v } a := State.readCell_congr hmem a
        _ = s.readCell a := (s.readCell_write c a v).trans (if_neg hac)
    · obtain rfl : c = a := by simpa [hst] using ha
      exact htext

/-! ### The program text along a run -/

/-- A run that goes on has taken its first step and then run the rest. -/
theorem run_succ_next {M : Host.Core} {k : Nat} {s t : M.State} (h : M.run (k + 1) s = .next t) :
    ∃ u, M.step s = .next u ∧ M.run k u = .next t := by
  rw [Host.Core.run] at h
  split at h
  · next u hu => exact ⟨u, hu, h⟩
  · cases h
  · cases h

/-- A run is a sequence of steps, so what one step keeps, an induction over `Relation.ReflTransGen` gives for the run. -/
theorem run_reflTransGen {M : Host.Core} {k : Nat} {s t : M.State} (h : M.run k s = .next t) :
    Relation.ReflTransGen (fun u v => M.step u = .next v) s t := by
  induction k generalizing s with
  | zero =>
    cases h
    exact .refl
  | succ k ih =>
    obtain ⟨u, hstep, hrest⟩ := run_succ_next h
    exact .head hstep (ih hrest)

/-- A store into the program text is refused, so a step that goes on leaves the text as it was. -/
theorem step_keeps_text {s t : State} {a : Addr} (h : step s = .next t) (ha : s.inText a = true) :
    t.readCell a = s.readCell a ∧ t.inText a = true := by
  refine ⟨?_, (State.inText_congr (stepKeepsTheParameters s t h) a).trans ha⟩
  rcases step_next h with ⟨-, rfl⟩ | ⟨-, i, -, hexec⟩
  · rfl
  · obtain ⟨hframe, houtside⟩ := onlyStoresChangeMemory i s.boundary t hexec
    have hne : storedTo s.boundary i ≠ some a := by
      intro hst
      have hout : s.inText a = false := by simpa using houtside a hst
      simp [ha] at hout
    exact (hframe a hne).trans (s.readCell_boundary a)

/-- Settles O16, by induction on the steps of the run. -/
theorem programTextNeverChanges : Obligations.ProgramTextNeverChanges := by
  intro k s t a hrun ha
  replace hrun := run_reflTransGen hrun
  induction hrun with
  | refl => exact ⟨rfl, ha⟩
  | tail _ hstep ih =>
    obtain ⟨hcell, htext⟩ := ih
    obtain ⟨hcell', htext'⟩ := step_keeps_text hstep htext
    exact ⟨hcell'.trans hcell, htext'⟩

/-- Settles O15: nothing is in memory at reset, and a program is loaded by writes of cells. -/
theorem bootMemoryIsCanonical : Obligations.BootMemoryIsCanonical :=
  ⟨Memory.wf_nil, fun base text => Memory.wf_image base text⟩

end Sys2Proof.Machine
end

section
/-!
Loads, stores and the fetch (20_memory.md R52 to R68): what each does where the cell it names holds a value, and where it
stops.
-/

namespace Sys2Proof.Machine

/-! ### One access -/

theorem State.withCell_of_some {s : State} {a : Addr} {v : Word} (f : Word → State) (h : s.readCell a = some v) :
    s.withCell a f = .next (f v) := by
  simp [State.withCell, h]

theorem State.withCell_of_none {s : State} {a : Addr} (f : Word → State) (h : s.readCell a = none) :
    s.withCell a f = .fault (.cellWithoutValue a) := by
  simp [State.withCell, h]

theorem State.storeCell_of_inText {s : State} {a : Addr} (v : Word) (h : s.inText a = true) :
    s.storeCell a v = .refused (.storeIntoText a) := by
  simp [State.storeCell, h]

/-- An instruction whose store is refused is refused. -/
theorem onNext_of_refused {o : Host.Outcome State Fault Refusal} {r : Refusal} (f : State → State) (h : o = .refused r) :
    onNext o f = .refused r := by
  rw [h, onNext]

/-- R161: a load of a cell that holds `v` has the effect of a register write of `v`. -/
theorem exec_lw_spec {s : State} {d a : Reg} {o : BitVec 9} {v : Word} (h : s.readCell (s.effAddr a o) = some v) :
    ∃ t, exec (.lw d a o) s = .next t ∧ RegisterResult s t [a] d v :=
  ⟨_, State.withCell_of_some _ h, s.registerResult [a] d v⟩

/-- A load of a cell that holds `v`, seen from a destination that stores (R22, R161). -/
theorem exec_lw_dest {s : State} {d a : Reg} {o : BitVec 9} {v : Word} (h : s.readCell (s.effAddr a o) = some v)
    (hz : d ≠ .zero) (hp : d ≠ .port) : ∃ t, exec (.lw d a o) s = .next t ∧ t.x d = v := by
  obtain ⟨t, hexec, hres⟩ := exec_lw_spec (d := d) h
  obtain ⟨hdest, -⟩ := hres.dest
  exact ⟨t, hexec, hdest hz hp⟩

/-- After a store the cell holds the value stored (R162). -/
theorem readCell_of_exec_sw {s t : State} {b a : Reg} {o : BitVec 9} (h : exec (.sw b a o) s = .next t) :
    t.readCell (s.effAddr a o) = some (s.x b) := by
  obtain ⟨-, houtside⟩ := onlyStoresChangeMemory _ s t h
  obtain ⟨u, hexec, hcell, -⟩ := exec_sw_spec (b := b) (houtside _ rfl)
  obtain rfl : t = u := by simpa [h] using hexec
  exact hcell

/-- Settles O18: the load finds the value in the cell the store wrote. -/
theorem storeThenLoadReturnsTheValue : Obligations.StoreThenLoadReturnsTheValue := by
  intro s t b a a' d o o' hsw haddr hz hp
  have hcell : t.readCell (t.effAddr a' o') = some (s.x b) := haddr ▸ readCell_of_exec_sw hsw
  exact exec_lw_dest hcell hz hp

/-- Settles O19: the effective address is the low 18 bits of the sum. -/
theorem truncatedAddressExample : Obligations.TruncatedAddressExample := by
  have htrunc : trunc18 0x1247FFFF = 0x3FFFF := by decide
  refine ⟨htrunc, fun s d a o v hsum hcell hz hp => ?_⟩
  have haddr : s.effAddr a o = 0x3FFFF := by rw [State.effAddr, hsum, htrunc]
  exact exec_lw_dest (haddr ▸ hcell) hz hp

/-- Settles O21: the register reads before the store do not move the text, and the refusal ends the instruction. -/
theorem storeIntoTextIsRefused : Obligations.StoreIntoTextIsRefused := by
  refine ⟨fun s b a o h => ?_, fun s b h => ?_⟩
  · exact onNext_of_refused _ (State.storeCell_of_inText (s.x b) ((s.inText_afterReads [a, b] _).trans h))
  · exact onNext_of_refused _ (State.storeCell_of_inText (s.x b) ((s.inText_afterReads [b] _).trans h))

/-! ### The fetch, and one step -/

theorem State.fetch_of_decode {s : State} {w : Word} {i : Instr} (hw : s.readCell s.pc = some w)
    (hi : decodeWord w = .ok i) : s.fetch = .ok i := by
  simp [State.fetch, hw, hi]

theorem State.fetch_of_valueless {s : State} (h : s.readCell s.pc = none) :
    s.fetch = .error (.cellWithoutValue s.pc) := by
  simp [State.fetch, h]

/-- The devices touch neither `pc` nor memory, so they do not change which instruction comes next. -/
@[simp] theorem State.fetch_boundary (s : State) : s.boundary.fetch = s.fetch := by
  simp only [State.fetch, State.boundary_pc, State.readCell_boundary]

theorem step_of_fetch_ok {s : State} {i : Instr} (hs : s.ended = false) (h : s.fetch = .ok i) :
    step s = exec i s.boundary := by
  simp [step, hs, h]

theorem step_of_fetch_error {s : State} {f : Fault} (hs : s.ended = false) (h : s.fetch = .error f) :
    step s = .fault f := by
  simp [step, hs, h]

@[simp] theorem State.deliver_events (s : State) (e : DeviceEvent) : (s.deliver e).events = s.events := by
  cases e <;> rfl

theorem State.deliver_all_events (es : List DeviceEvent) (s : State) : (es.foldl State.deliver s).events = s.events := by
  induction es generalizing s with
  | nil => rfl
  | cons e es ih => exact (ih (s.deliver e)).trans (s.deliver_events e)

/-- Log 8: a boundary uses up the first element of the event list. -/
theorem State.boundary_events (s : State) : s.boundary.events = s.events.tail := by
  unfold State.boundary
  split
  · next h => simp [h]
  · next now later h => simp [h, State.deliver_all_events]

/-- Settles O6: the boundary does not change the instruction fetched, and its frame is that of the device steps. -/
theorem stepRunsDecodedInstruction : Obligations.StepRunsDecodedInstruction := by
  intro s w i hs hw hi
  obtain ⟨hx, hpc, -, hchars, hpixels, hcfg, hdraws, -⟩ := s.boundary_frame
  exact ⟨step_of_fetch_ok hs (State.fetch_of_decode hw hi), fun r hr _ => hx r hr, hpc, s.readCell_boundary, hchars,
    hpixels, hcfg, hdraws, s.boundary_events⟩

/-- Settles O20: the load, the pop and the fetch each read the cell and stop there. -/
theorem valuelessCellFaults : Obligations.ValuelessCellFaults := by
  refine ⟨fun s d a o h => ?_, fun s d hd h => ?_, fun s hs h => ?_⟩
  · exact State.withCell_of_none _ h
  · exact (if_neg hd).trans (State.withCell_of_none _ h)
  · exact step_of_fetch_error hs (State.fetch_of_valueless h)

end Sys2Proof.Machine
end

section
/-!
Decoding and the don't-care bits (30_encoding.md R91 to R98). `Instr.FieldsIn` says which fields of a word an instruction
fixes; the care mask, the decoder and, in the section after this one, the rows of the opcode map are each tied to it.
-/

namespace Sys2Proof

/-! ### The fields of a word under a mask -/

@[simp] theorem and_allOnes4 (x : BitVec 4) : x &&& 15#4 = x := BitVec.and_allOnes
@[simp] theorem and_allOnes5 (x : BitVec 5) : x &&& 31#5 = x := BitVec.and_allOnes
@[simp] theorem and_allOnes9 (x : BitVec 9) : x &&& 511#9 = x := BitVec.and_allOnes
@[simp] theorem and_allOnes16 (x : BitVec 16) : x &&& 65535#16 = x := BitVec.and_allOnes
@[simp] theorem and_allOnes18 (x : BitVec 18) : x &&& 262143#18 = x := BitVec.and_allOnes

/-- A word is its six fields (R83). -/
theorem eq_formatR_iff (w : Word) (op mode : BitVec 4) (d a b : BitVec 5) (x : BitVec 9) :
    w = formatR op mode d a b x ↔ opField w = op ∧ modeField w = mode ∧ fdField w = d ∧ faField w = a ∧
      fbField w = b ∧ off9Field w = x := by
  constructor
  · rintro rfl
    simp
  · rintro ⟨rfl, rfl, rfl, rfl, rfl, rfl⟩
    apply BitVec.eq_of_toNat_eq
    simp only [toNat_formatR, opField, modeField, fdField, faField, fbField, off9Field, toNat_extract]
    omega

/-- A word is its five fields (R84). -/
theorem eq_formatI_iff (w : Word) (op mode : BitVec 4) (d : BitVec 5) (x : BitVec 3) (k : BitVec 16) :
    w = formatI op mode d x k ↔ opField w = op ∧ modeField w = mode ∧ fdField w = d ∧ w.extractLsb' 16 3 = x ∧
      imm16Field w = k := by
  constructor
  · rintro rfl
    refine ⟨by simp, by simp, by simp, ?_, by simp⟩
    apply BitVec.eq_of_toNat_eq
    rw [toNat_extract, toNat_formatI]
    omega
  · rintro ⟨rfl, rfl, rfl, rfl, rfl⟩
    apply BitVec.eq_of_toNat_eq
    simp only [toNat_formatI, opField, modeField, fdField, imm16Field, toNat_extract]
    omega

/-- A word is its five fields (R89). -/
theorem eq_formatJ_iff (w : Word) (op mode : BitVec 4) (d : BitVec 5) (x : BitVec 1) (t : Addr) :
    w = formatJ op mode d x t ↔ opField w = op ∧ modeField w = mode ∧ fdField w = d ∧ w.extractLsb' 18 1 = x ∧
      addr18Field w = t := by
  constructor
  · rintro rfl
    refine ⟨by simp, by simp, by simp, ?_, by simp⟩
    apply BitVec.eq_of_toNat_eq
    rw [toNat_extract, toNat_formatJ]
    omega
  · rintro ⟨rfl, rfl, rfl, rfl, rfl⟩
    apply BitVec.eq_of_toNat_eq
    simp only [toNat_formatJ, opField, modeField, fdField, addr18Field, toNat_extract]
    omega

/-- The two parts of a branch offset are bits 23:19 and bits 8:0 (R88, D7). -/
theorem off14Field_eq_iff (w : Word) (o : BitVec 14) :
    off14Field w = o ↔ fdField w = o.extractLsb' 9 5 ∧ off9Field w = o.extractLsb' 0 9 := by
  constructor
  · rintro rfl
    exact ⟨BitVec.extractLsb'_append_eq_left.symm, BitVec.extractLsb'_append_eq_right.symm⟩
  · rintro ⟨hhigh, hlow⟩
    apply BitVec.eq_of_toNat_eq
    rw [off14Field, hhigh, hlow, toNat_append_mul, toNat_extract, toNat_extract]
    omega

section Mask

variable (w m : Word)

theorem and_eq_formatR_iff (op mode : BitVec 4) (d a b : BitVec 5) (x : BitVec 9) :
    w &&& m = formatR op mode d a b x ↔
      opField w &&& m.extractLsb' 28 4 = op ∧ modeField w &&& m.extractLsb' 24 4 = mode ∧
      fdField w &&& m.extractLsb' 19 5 = d ∧ faField w &&& m.extractLsb' 14 5 = a ∧
      fbField w &&& m.extractLsb' 9 5 = b ∧ off9Field w &&& m.extractLsb' 0 9 = x := by
  simp only [eq_formatR_iff, opField, modeField, fdField, faField, fbField, off9Field, BitVec.extractLsb'_and]

theorem and_eq_formatI_iff (op mode : BitVec 4) (d : BitVec 5) (x : BitVec 3) (k : BitVec 16) :
    w &&& m = formatI op mode d x k ↔
      opField w &&& m.extractLsb' 28 4 = op ∧ modeField w &&& m.extractLsb' 24 4 = mode ∧
      fdField w &&& m.extractLsb' 19 5 = d ∧ w.extractLsb' 16 3 &&& m.extractLsb' 16 3 = x ∧
      imm16Field w &&& m.extractLsb' 0 16 = k := by
  simp only [eq_formatI_iff, opField, modeField, fdField, imm16Field, BitVec.extractLsb'_and]

theorem and_eq_formatJ_iff (op mode : BitVec 4) (d : BitVec 5) (x : BitVec 1) (t : Addr) :
    w &&& m = formatJ op mode d x t ↔
      opField w &&& m.extractLsb' 28 4 = op ∧ modeField w &&& m.extractLsb' 24 4 = mode ∧
      fdField w &&& m.extractLsb' 19 5 = d ∧ w.extractLsb' 18 1 &&& m.extractLsb' 18 1 = x ∧
      addr18Field w &&& m.extractLsb' 0 18 = t := by
  simp only [eq_formatJ_iff, opField, modeField, fdField, addr18Field, BitVec.extractLsb'_and]

/-- The match of a row of R95, field by field. -/
theorem and_eq_iff (v : Word) :
    w &&& m = v ↔
      opField w &&& m.extractLsb' 28 4 = v.extractLsb' 28 4 ∧
      modeField w &&& m.extractLsb' 24 4 = v.extractLsb' 24 4 ∧
      fdField w &&& m.extractLsb' 19 5 = v.extractLsb' 19 5 ∧
      faField w &&& m.extractLsb' 14 5 = v.extractLsb' 14 5 ∧
      fbField w &&& m.extractLsb' 9 5 = v.extractLsb' 9 5 ∧
      off9Field w &&& m.extractLsb' 0 9 = v.extractLsb' 0 9 := by
  have hv : v = formatR (opField v) (modeField v) (fdField v) (faField v) (fbField v) (off9Field v) :=
    (eq_formatR_iff ..).2 ⟨rfl, rfl, rfl, rfl, rfl, rfl⟩
  rw [hv, and_eq_formatR_iff, ← hv]
  rfl

end Mask

/-! ### The fields an instruction fixes -/

/-- The fields of a word that the row of R91 gives an instruction hold its operands and fixed values. -/
def Instr.FieldsIn (w : Word) : Instr → Prop
  | .add d a b => opField w = 0 ∧ modeField w = 0 ∧ fdField w = d.field ∧ faField w = a.field ∧ fbField w = b.field
  | .sub d a b => opField w = 0 ∧ modeField w = 1 ∧ fdField w = d.field ∧ faField w = a.field ∧ fbField w = b.field
  | .inc d a => opField w = 0 ∧ modeField w = 2 ∧ fdField w = d.field ∧ faField w = a.field
  | .dec d a => opField w = 0 ∧ modeField w = 3 ∧ fdField w = d.field ∧ faField w = a.field
  | .mult d a b => opField w = 3 ∧ modeField w = 0 ∧ fdField w = d.field ∧ faField w = a.field ∧ fbField w = b.field
  | .and d a b => opField w = 1 ∧ modeField w = 0 ∧ fdField w = d.field ∧ faField w = a.field ∧ fbField w = b.field
  | .or d a b => opField w = 1 ∧ modeField w = 1 ∧ fdField w = d.field ∧ faField w = a.field ∧ fbField w = b.field
  | .xor d a b => opField w = 1 ∧ modeField w = 2 ∧ fdField w = d.field ∧ faField w = a.field ∧ fbField w = b.field
  | .not d a => opField w = 1 ∧ modeField w = 3 ∧ fdField w = d.field ∧ faField w = a.field
  | .sra d a b => opField w = 2 ∧ modeField w = 0 ∧ fdField w = d.field ∧ faField w = a.field ∧ fbField w = b.field
  | .srl d a b => opField w = 2 ∧ modeField w = 1 ∧ fdField w = d.field ∧ faField w = a.field ∧ fbField w = b.field
  | .sl d a b => opField w = 2 ∧ modeField w = 2 ∧ fdField w = d.field ∧ faField w = a.field ∧ fbField w = b.field
  | .rol d a b => opField w = 2 ∧ modeField w = 3 ∧ fdField w = d.field ∧ faField w = a.field ∧ fbField w = b.field
  | .ror d a b => opField w = 2 ∧ modeField w = 4 ∧ fdField w = d.field ∧ faField w = a.field ∧ fbField w = b.field
  | .nop => opField w = 4 ∧ modeField w = 0 ∧ fdField w = 0 ∧ faField w = 0 ∧ fbField w = 0
  | .lli d k => opField w = 5 ∧ modeField w = 0 ∧ fdField w = d.field ∧ imm16Field w = k
  | .lui d k => opField w = 5 ∧ modeField w = 1 ∧ fdField w = d.field ∧ imm16Field w = k
  | .lw d a o => opField w = 8 ∧ modeField w = 0 ∧ fdField w = d.field ∧ faField w = a.field ∧ off9Field w = o
  | .sw b a o => opField w = 9 ∧ modeField w = 0 ∧ faField w = a.field ∧ fbField w = b.field ∧ off9Field w = o
  | .svga b => opField w = 9 ∧ modeField w = 1 ∧ fbField w = b.field
  | .push b => opField w = 10 ∧ modeField w = 0 ∧ faField w = 30 ∧ fbField w = b.field
  | .pop d => opField w = 11 ∧ modeField w = 0 ∧ fdField w = d.field ∧ faField w = 30
  | .jr a => opField w = 7 ∧ modeField w = 0 ∧ faField w = a.field
  | .jal t => opField w = 7 ∧ modeField w = 1 ∧ fdField w = 31 ∧ addr18Field w = t
  | .brgt a b o => opField w = 6 ∧ modeField w = 1 ∧ faField w = a.field ∧ fbField w = b.field ∧ off14Field w = o
  | .brlt a b o => opField w = 6 ∧ modeField w = 2 ∧ faField w = a.field ∧ fbField w = b.field ∧ off14Field w = o
  | .breq a b o => opField w = 6 ∧ modeField w = 5 ∧ faField w = a.field ∧ fbField w = b.field ∧ off14Field w = o
  | .br o => opField w = 6 ∧ modeField w = 0 ∧ off14Field w = o
  | .brchar o => opField w = 6 ∧ modeField w = 3 ∧ off14Field w = o
  | .brvid o => opField w = 6 ∧ modeField w = 4 ∧ off14Field w = o
  | .brpix o => opField w = 6 ∧ modeField w = 6 ∧ off14Field w = o

/-- The care mask (R91, R92) covers exactly the fields the instruction fixes. In format B the two parts of the offset stand
on either side of the registers, so there the same conditions come in another order. -/
theorem and_careMask_eq_encode_iff (w : Word) (i : Instr) : w &&& careMask i = encode i ↔ i.FieldsIn w := by
  cases i with
  | lli | lui => simp [careMask, encode, Instr.FieldsIn, and_eq_formatI_iff]
  | jal => simp [careMask, encode, Instr.FieldsIn, and_eq_formatJ_iff]
  | brgt | brlt | breq | br | brchar | brvid | brpix =>
    simp [careMask, encode, Instr.FieldsIn, formatB, and_eq_formatR_iff, off14Field_eq_iff] <;> tauto
  | _ => simp [careMask, encode, Instr.FieldsIn, and_eq_formatR_iff]

/-! ### The decoder -/

@[simp] theorem checkFixed_eq_ok_iff (w : Word) (ok : Bool) (i j : Instr) :
    checkFixed w ok i = .ok j ↔ ok = true ∧ i = j := by
  cases ok <;> simp [checkFixed]

@[simp] theorem checkSrcIsDest_eq_ok_iff (w : Word) (i j : Instr) :
    checkSrcIsDest w i = .ok j ↔ faField w = fdField w ∧ i = j := by
  by_cases h : faField w = fdField w <;> simp [checkSrcIsDest, h]

/-- The fields an instruction fixes are all that the decoder reads; only `inc` and `dec` need well-formedness (R98). -/
theorem decodeWord_of_fieldsIn {w : Word} {i : Instr} (hi : i.wellFormed = true) (h : i.FieldsIn w) :
    decodeWord w = .ok i := by
  cases i with
  | inc d a | dec d a =>
    obtain rfl : a = d := by simpa [Instr.wellFormed] using hi
    obtain ⟨hop, hmode, hfd, hfa⟩ := h
    simp [decodeWord, hop, hmode, fdReg, faReg, hfd, hfa]
  | _ =>
    simp only [Instr.FieldsIn] at h
    simp [decodeWord, fdReg, faReg, fbReg, h]

/-- Each branch of the decoder has tested `op` and `mode`; `inc` and `dec` (the first cases) also that `fa` = `fd` (R98),
`nop`, `jal`, `push` and `pop` (the second) also their fixed fields (R97); the other branches test nothing more. -/
theorem fieldsIn_of_decodeWord {w : Word} {i : Instr} (h : decodeWord w = .ok i) :
    i.wellFormed = true ∧ i.FieldsIn w := by
  unfold decodeWord at h
  split at h
  all_goals
    simp only [checkFixed_eq_ok_iff, checkSrcIsDest_eq_ok_iff, Except.ok.injEq, reduceCtorEq] at h
  case h_3 | h_4 =>
    obtain ⟨hcheck, rfl⟩ := h
    have hreg : faReg w = fdReg w := congrArg regOfField hcheck
    simp_all [Instr.wellFormed, Instr.FieldsIn, ← BitVec.toNat_inj, fdReg]
  case h_15 | h_26 | h_30 | h_31 =>
    obtain ⟨hcheck, rfl⟩ := h
    simp_all [Instr.wellFormed, Instr.FieldsIn, ← BitVec.toNat_inj, fdReg, fbReg]
  all_goals
    subst h
    simp_all [Instr.wellFormed, Instr.FieldsIn, ← BitVec.toNat_inj, fdReg, faReg, fbReg]

/-- The decoder without its case distinction: a well-formed instruction whose word agrees in the care bits. -/
theorem decodeWord_eq_ok_iff (w : Word) (i : Instr) :
    decodeWord w = .ok i ↔ i.wellFormed = true ∧ w &&& careMask i = encode i := by
  rw [and_careMask_eq_encode_iff]
  exact ⟨fieldsIn_of_decodeWord, fun ⟨hi, h⟩ => decodeWord_of_fieldsIn hi h⟩

/-! ### The statements -/

/-- Settles O1: the round trip of each instruction, one law per constructor. -/
theorem decodeOfEncodeIsIdentity : Obligations.DecodeOfEncodeIsIdentity := by
  intro i
  cases i with
  | add d a b => exact Laws.RoundTrip.add d a b
  | sub d a b => exact Laws.RoundTrip.sub d a b
  | inc d a => exact Laws.RoundTrip.inc d a
  | dec d a => exact Laws.RoundTrip.dec d a
  | mult d a b => exact Laws.RoundTrip.mult d a b
  | and d a b => exact Laws.RoundTrip.and d a b
  | or d a b => exact Laws.RoundTrip.or d a b
  | xor d a b => exact Laws.RoundTrip.xor d a b
  | not d a => exact Laws.RoundTrip.not d a
  | sra d a b => exact Laws.RoundTrip.sra d a b
  | srl d a b => exact Laws.RoundTrip.srl d a b
  | sl d a b => exact Laws.RoundTrip.sl d a b
  | rol d a b => exact Laws.RoundTrip.rol d a b
  | ror d a b => exact Laws.RoundTrip.ror d a b
  | nop => exact Laws.RoundTrip.nop
  | lli d k => exact Laws.RoundTrip.lli d k
  | lui d k => exact Laws.RoundTrip.lui d k
  | lw d a o => exact Laws.RoundTrip.lw d a o
  | sw b a o => exact Laws.RoundTrip.sw b a o
  | svga b => exact Laws.RoundTrip.svga b
  | push b => exact Laws.RoundTrip.push b
  | pop d => exact Laws.RoundTrip.pop d
  | jr a => exact Laws.RoundTrip.jr a
  | jal t => exact Laws.RoundTrip.jal t
  | brgt a b o => exact Laws.RoundTrip.brgt a b o
  | brlt a b o => exact Laws.RoundTrip.brlt a b o
  | breq a b o => exact Laws.RoundTrip.breq a b o
  | br o => exact Laws.RoundTrip.br o
  | brchar o => exact Laws.RoundTrip.brchar o
  | brvid o => exact Laws.RoundTrip.brvid o
  | brpix o => exact Laws.RoundTrip.brpix o

/-- Settles O3: decoding is agreement in the care bits, so words that agree there decode alike. -/
theorem meaningDependsOnlyOnCareBits : Obligations.MeaningDependsOnlyOnCareBits := by
  intro w i h
  obtain ⟨hi, hcare⟩ := (decodeWord_eq_ok_iff w i).1 h
  exact ⟨hcare, fun w' hw' => (decodeWord_eq_ok_iff w' i).2 ⟨hi, hw'.trans hcare⟩⟩

/-- Settles O5: the decoder, evaluated on each of the nine words. -/
theorem writtenOutWordsDecode : Obligations.WrittenOutWordsDecode :=
  ⟨rfl, rfl, rfl, rfl, rfl, rfl, rfl, rfl, rfl⟩

end Sys2Proof
end

section
/-!
The opcode map (30_encoding.md R95 to R98): which words match a row, and what the words of no row do.
-/

namespace Sys2Proof

/-- The row of R95 with an instruction's mnemonic. -/
def Instr.row? (i : Instr) : Option OpcodeRow := opcodeMap.find? fun row => row.mnemonic == i.mnemonic

/-- No two rows have the same mnemonic, so the search finds the row of the mnemonic. -/
theorem row?_eq_some {i : Instr} {row : OpcodeRow} (hmem : row ∈ opcodeMap) (h : i.mnemonic = row.mnemonic) :
    i.row? = some row := by
  rw [Instr.row?, h]
  exact (by decide : ∀ row ∈ opcodeMap, opcodeMap.find? (fun r => r.mnemonic == row.mnemonic) = some row) row hmem

/-- Every instruction has a row, and a word with the instruction's fields matches it. -/
theorem matches_of_fieldsIn {w : Word} {i : Instr} (hi : i.wellFormed = true) (h : i.FieldsIn w) :
    ∃ row, i.row? = some row ∧ row.matches w = true := by
  cases i with
  | inc d a | dec d a =>
    obtain rfl : a = d := by simpa [Instr.wellFormed] using hi
    obtain ⟨hop, hmode, hfd, hfa⟩ := h
    simp [Instr.row?, opcodeMap, Instr.mnemonic, OpcodeRow.matches, and_eq_iff, hop, hmode, hfd, hfa]
  | _ =>
    simp only [Instr.FieldsIn] at h
    simp [Instr.row?, opcodeMap, Instr.mnemonic, OpcodeRow.matches, and_eq_iff, h]

/-- Each row of R95 fixes what the decoder tests, and its mnemonic is that of the instruction decoded. -/
theorem exists_decode_of_matches {w : Word} {row : OpcodeRow} (hmem : row ∈ opcodeMap) (h : row.matches w = true) :
    ∃ i, decodeWord w = .ok i ∧ i.mnemonic = row.mnemonic := by
  fin_cases hmem
  all_goals
    simp only [OpcodeRow.matches, and_eq_iff, Bool.and_eq_true, beq_iff_eq] at h
    simp_all [decodeWord, Instr.mnemonic, checkFixed, checkSrcIsDest]

/-- Settles O2: an instruction has one row, and the word it is decoded from matches that row. -/
theorem decodeFollowsOpcodeMap : Obligations.DecodeFollowsOpcodeMap := by
  intro w row hmem
  constructor
  · rintro ⟨i, hdec, hname⟩
    obtain ⟨hi, hfields⟩ := fieldsIn_of_decodeWord hdec
    obtain ⟨row', hrow', hmatch⟩ := matches_of_fieldsIn hi hfields
    obtain rfl : row' = row := by simpa [row?_eq_some hmem hname] using hrow'.symm
    exact hmatch
  · exact exists_decode_of_matches hmem

end Sys2Proof

namespace Sys2Proof.Machine

theorem State.fetch_of_reserved {s : State} {w : Word} {why : Reserved} (hw : s.readCell s.pc = some w)
    (h : decodeWord w = .error why) : s.fetch = .error (.reservedEncoding why) := by
  simp [State.fetch, hw, h]

/-- What decodes to an instruction matches the instruction's row, so a word of no row is reserved (R96). -/
theorem exists_error_of_no_row {w : Word} (h : ∀ row ∈ opcodeMap, row.matches w = false) :
    ∃ why, decodeWord w = .error why := by
  cases hdec : decodeWord w with
  | error why => exact ⟨why, rfl⟩
  | ok i =>
    obtain ⟨hi, hfields⟩ := fieldsIn_of_decodeWord hdec
    obtain ⟨row, hrow, hmatch⟩ := matches_of_fieldsIn hi hfields
    have hnot : row.matches w = false := h row (List.mem_of_find?_eq_some hrow)
    simp [hmatch] at hnot

/-- Settles O4: a word of no row is reserved, and the fetch of a reserved word stops the step. -/
theorem reservedWordsFault : Obligations.ReservedWordsFault :=
  ⟨fun _ h => exists_error_of_no_row h,
    fun _ _ _ hs hw h => step_of_fetch_error hs (State.fetch_of_reserved hw h)⟩

end Sys2Proof.Machine
end

section
/-!
What the assembler places for a label (30_encoding.md R108, R109, decision D29).
-/

namespace Sys2Proof.Machine

theorem resolve_branchTo_ok {table : List (List Char × Nat)} {name : List Char} {p t : Nat} {rest : List Stmt}
    {after : List Instr} (i : Instr) (hlook : lookupLabel table name = .ok t)
    (hrest : resolve table (p + 1) rest = .ok after) :
    resolve table p (.branchTo i name :: rest) =
      (fitSigned 14 ((t : Int) - (p + 1))).map fun o => withOffset o i :: after := by
  rw [resolve, hlook, hrest]
  change ((fitSigned 14 ((t : Int) - (p + 1))).bind fun o => .ok (withOffset o i :: after)) = _
  cases fitSigned 14 ((t : Int) - (p + 1)) <;> rfl

theorem resolve_jalTo_ok {table : List (List Char × Nat)} {name : List Char} {p t : Nat} {rest : List Stmt}
    {after : List Instr} (hlook : lookupLabel table name = .ok t)
    (hrest : resolve table (p + 1) rest = .ok after) :
    resolve table p (.jalTo name :: rest) = .ok (.jal (BitVec.ofNat 18 t) :: after) := by
  rw [resolve, hlook, hrest]
  rfl

theorem resolve_branchTo_error {table : List (List Char × Nat)} {name : List Char} {e : AsmError}
    (h : lookupLabel table name = .error e) (p : Nat) (i : Instr) (rest : List Stmt) :
    resolve table p (.branchTo i name :: rest) = .error e := by
  rw [resolve, h]
  rfl

theorem resolve_jalTo_error {table : List (List Char × Nat)} {name : List Char} {e : AsmError}
    (h : lookupLabel table name = .error e) (p : Nat) (rest : List Stmt) :
    resolve table p (.jalTo name :: rest) = .error e := by
  rw [resolve, h]
  rfl

theorem fitSigned14_of_mem {n : Int} (h : -8192 ≤ n ∧ n ≤ 8191) : fitSigned 14 n = .ok (BitVec.ofInt 14 n) :=
  if_pos (by omega)

theorem fitSigned14_of_not_mem {n : Int} (h : ¬(-8192 ≤ n ∧ n ≤ 8191)) :
    fitSigned 14 n = .error .inappropriateOffset :=
  if_neg (by omega)

/-- R109, R191: the distance `t - (p + 1)`, written as an offset, leads from `p` to `t`. -/
theorem isBranchTarget_distance {s : State} {p t : Nat} (hs : s.pc = BitVec.ofNat 18 p)
    (h : -8192 ≤ (t : Int) - (p + 1) ∧ (t : Int) - (p + 1) ≤ 8191) :
    IsBranchTarget s (BitVec.ofInt 14 ((t : Int) - (p + 1))) (BitVec.ofNat 18 t) := by
  have hoff : (BitVec.ofInt 14 ((t : Int) - (p + 1))).toInt = (t : Int) - (p + 1) :=
    BitVec.toInt_ofInt_eq_self (by decide) (by omega) (by omega)
  rw [IsBranchTarget, hoff, hs, BitVec.toNat_ofNat, BitVec.toNat_ofNat]
  omega

/-- Settles O52: the label's distance is the offset if it fits the field, the error if not; `jal` takes the address. -/
theorem labelOffsetReachesTheLabel : Obligations.LabelOffsetReachesTheLabel := by
  intro table name p rest after a b hrest branch hbranch
  have hoffset (o : BitVec 14) : withOffset o (branch 0) = branch o := by
    simp only [List.mem_cons, List.not_mem_nil, or_false] at hbranch
    rcases hbranch with rfl | rfl | rfl | rfl | rfl | rfl | rfl <;> rfl
  refine ⟨fun t hlook => ⟨?_, resolve_jalTo_ok hlook hrest⟩,
    fun herr => ⟨resolve_branchTo_error herr p _ rest, resolve_jalTo_error herr p rest⟩⟩
  rw [resolve_branchTo_ok (branch 0) hlook hrest]
  split
  · next hfits =>
    refine ⟨BitVec.ofInt 14 ((t : Int) - (p + 1)), ?_, fun s hs => isBranchTarget_distance hs hfits⟩
    rw [fitSigned14_of_mem hfits, Except.map, hoffset]
  · next hfar =>
    rw [fitSigned14_of_not_mem hfar, Except.map]

end Sys2Proof.Machine
end

section
/-!
Assembly text gives well-formed instructions only (30_encoding.md R98, R105): what each part of the assembler yields, from
the operands up to the whole text.
-/

namespace Sys2Proof.Machine

/-- Every value that `x` succeeds with has `P`. -/
def Yields {α : Type} (P : α → Prop) (x : Except AsmError α) : Prop := ∀ v, x = .ok v → P v

section Yields

variable {α β : Type} {P : α → Prop} {Q : β → Prop}

theorem Yields.ok {v : α} (h : P v) : Yields P (.ok v) := by
  rintro _ ⟨⟩
  exact h

theorem Yields.error (e : AsmError) : Yields P (.error e) := by
  rintro _ ⟨⟩

theorem Yields.bind {x : Except AsmError α} {f : α → Except AsmError β} (hx : Yields P x)
    (hf : ∀ v, P v → Yields Q (f v)) : Yields Q (x >>= f) := by
  cases x with
  | error e => exact .error e
  | ok v => exact hf v (hx v rfl)

/-- Where nothing is known of the first value. -/
theorem Yields.bind_any {x : Except AsmError α} {f : α → Except AsmError β} (hf : ∀ v, Yields Q (f v)) :
    Yields Q (x >>= f) :=
  Yields.bind (P := fun _ => True) (fun _ _ => trivial) fun v _ => hf v

end Yields

/-- The instruction of a statement is well formed. -/
def Stmt.WellFormed : Stmt → Prop
  | .instr i | .branchTo i _ => i.wellFormed = true
  | .label _ | .stop | .jalTo _ => True

/-! ### One statement -/

theorem threeRegs_wellFormed {mk : Reg → Reg → Reg → Instr} (hmk : ∀ d a b, (mk d a b).wellFormed = true)
    (args : List (List Char)) : Yields Stmt.WellFormed (threeRegs mk args) := by
  unfold threeRegs
  split
  · exact .bind_any fun d => .bind_any fun a => .bind_any fun b => .ok (hmk d a b)
  · exact .error _

theorem twoRegs_wellFormed {mk : Reg → Reg → Instr} (hmk : ∀ d a, (mk d a).wellFormed = true)
    (args : List (List Char)) : Yields Stmt.WellFormed (twoRegs mk args) := by
  unfold twoRegs
  split
  · exact .bind_any fun d => .bind_any fun a => .ok (hmk d a)
  · exact .error _

theorem oneReg_wellFormed {mk : Reg → Instr} (hmk : ∀ d, (mk d).wellFormed = true)
    (args : List (List Char)) : Yields Stmt.WellFormed (oneReg mk args) := by
  unfold oneReg
  split
  · exact .bind_any fun d => .ok (hmk d)
  · exact .error _

theorem regAndImmediate_wellFormed {mk : Reg → BitVec 16 → Instr} (hmk : ∀ d k, (mk d k).wellFormed = true)
    (args : List (List Char)) : Yields Stmt.WellFormed (regAndImmediate mk args) := by
  unfold regAndImmediate
  split
  · exact .bind_any fun d => .bind_any fun k => .ok (hmk d k)
  · exact .error _

theorem regBaseOffset_wellFormed {mk : Reg → Reg → BitVec 9 → Instr} (hmk : ∀ d a o, (mk d a o).wellFormed = true)
    (args : List (List Char)) : Yields Stmt.WellFormed (regBaseOffset mk args) := by
  unfold regBaseOffset
  split
  · exact .bind_any fun d => .bind_any fun a => .bind_any fun o => .ok (hmk d a o)
  · exact .error _

theorem branchOperand_wellFormed {mk : BitVec 14 → Instr} (hmk : ∀ o, (mk o).wellFormed = true) (arg : List Char) :
    Yields Stmt.WellFormed (branchOperand mk arg) := by
  unfold branchOperand
  split
  · exact .bind_any fun o => .ok (hmk o)
  · exact .bind_any fun _ => .ok (hmk 0)

theorem branchArg_wellFormed {mk : BitVec 14 → Instr} (hmk : ∀ o, (mk o).wellFormed = true)
    (args : List (List Char)) : Yields Stmt.WellFormed (branchArg mk args) := by
  unfold branchArg
  split
  · exact branchOperand_wellFormed hmk _
  · exact .error _

theorem compareArgs_wellFormed {mk : Reg → Reg → BitVec 14 → Instr} (hmk : ∀ a b o, (mk a b o).wellFormed = true)
    (args : List (List Char)) : Yields Stmt.WellFormed (compareArgs mk args) := by
  unfold compareArgs
  split
  · exact .bind_any fun a => .bind_any fun b => branchOperand_wellFormed (hmk a b) _
  · exact .error _

theorem jalArg_wellFormed (args : List (List Char)) : Yields Stmt.WellFormed (jalArg args) := by
  unfold jalArg
  split
  · split
    · split
      · exact .ok rfl
      · exact .error _
    · exact .bind_any fun _ => .ok trivial
  · exact .error _

/-- R98: `inc` and `dec` (the first cases) are assembled with one register in both fields; for every other mnemonic, in the
order of the model's list and with the three-register forms last, any operands will do. -/
theorem instruction_wellFormed (mnemonic : String) (args : List (List Char)) :
    Yields Stmt.WellFormed (instruction mnemonic args) := by
  unfold instruction
  split
  case h_3 | h_4 => exact oneReg_wellFormed (fun _ => by simp [Instr.wellFormed]) args
  case h_10 => exact twoRegs_wellFormed (fun _ _ => rfl) args
  case h_16 =>
    split
    · exact .ok rfl
    · exact .error _
  case h_17 | h_18 => exact regAndImmediate_wellFormed (fun _ _ => rfl) args
  case h_19 | h_20 => exact regBaseOffset_wellFormed (fun _ _ _ => rfl) args
  case h_21 | h_22 | h_23 | h_24 => exact oneReg_wellFormed (fun _ => rfl) args
  case h_25 => exact jalArg_wellFormed args
  case h_26 | h_27 | h_28 => exact compareArgs_wellFormed (fun _ _ _ => rfl) args
  case h_29 | h_30 | h_31 | h_32 => exact branchArg_wellFormed (fun _ => rfl) args
  case h_33 => exact .error _
  all_goals exact threeRegs_wellFormed (fun _ _ _ => rfl) args

/-! ### The text -/

theorem parseLine_wellFormed (line : List Char) :
    Yields (fun parsed => ∀ st ∈ parsed.toList, st.WellFormed) (parseLine line) := by
  unfold parseLine
  dsimp only
  split
  · split
    · exact .error _
    · exact .bind_any fun name => .ok (by simp [Stmt.WellFormed])
  · split
    · split
      · exact .error _
      · exact .ok (by simp)
    · split
      · exact .error _
      · split
        · exact .error _
        · refine .bind_any fun args => ?_
          split
          · split
            · exact .ok (by simp [Stmt.WellFormed])
            · exact .error _
          · exact (instruction_wellFormed _ args).bind fun st hst => .ok (by simpa using hst)

theorem parseLines_wellFormed (lines : List (List Char)) :
    Yields (fun stmts => ∀ st ∈ stmts, st.WellFormed) (parseLines lines) := by
  induction lines with
  | nil => exact .ok (by simp)
  | cons line lines ih =>
    exact (parseLine_wellFormed line).bind fun first hfirst => ih.bind fun rest hrest =>
      .ok fun st hst => (List.mem_append.1 hst).elim (hfirst st) (hrest st)

theorem withOffset_wellFormed {i : Instr} (o : BitVec 14) (h : i.wellFormed = true) :
    (withOffset o i).wellFormed = true := by
  cases i <;> exact h

/-- Labels and `stop` occupy no cell, and an offset changes no register field. -/
theorem resolve_wellFormed (table : List (List Char × Nat)) (p : Nat) (stmts : List Stmt)
    (h : ∀ st ∈ stmts, st.WellFormed) : Yields (fun is => ∀ i ∈ is, i.wellFormed = true) (resolve table p stmts) := by
  induction stmts generalizing p with
  | nil => exact .ok (by simp)
  | cons st rest ih =>
    obtain ⟨hst, hrest⟩ := List.forall_mem_cons.1 h
    cases st with
    | label name => exact ih p hrest
    | stop => exact ih p hrest
    | instr i => exact (ih (p + 1) hrest).bind fun is his => .ok (List.forall_mem_cons.2 ⟨hst, his⟩)
    | branchTo i name =>
      exact .bind_any fun t => .bind_any fun o => (ih (p + 1) hrest).bind fun is his =>
        .ok (List.forall_mem_cons.2 ⟨withOffset_wellFormed o hst, his⟩)
    | jalTo name =>
      exact .bind_any fun t => (ih (p + 1) hrest).bind fun is his => .ok (List.forall_mem_cons.2 ⟨rfl, his⟩)

theorem assembleInstrs_wellFormed (base : Addr) (text : List Char) :
    Yields (fun is => ∀ i ∈ is, i.wellFormed = true) (assembleInstrs base text) := by
  refine (parseLines_wellFormed (splitWhere (· == '\n') text)).bind fun stmts hstmts => ?_
  dsimp only
  split
  · exact .error _
  · split
    · exact .error _
    · exact resolve_wellFormed _ base.toNat stmts hstmts

/-- The words of a text are the words of its instructions (R92). -/
theorem assemble_eq (base : Addr) (text : List Char) :
    assemble base text = (assembleInstrs base text).map (List.map encode) := by
  rw [assemble]
  cases assembleInstrs base text <;> rfl

theorem decode_map_encode {is : List Instr} (h : ∀ i ∈ is, i.wellFormed = true) :
    (is.map encode).map decodeWord = is.map .ok := by
  rw [List.map_map]
  exact List.map_congr_left fun i hi => decodeOfEncodeIsIdentity i (h i hi)

/-- Settles O53: the text's instructions are well formed, so the words they are encoded to decode to them (O1). -/
theorem assembledWordsDecode : Obligations.AssembledWordsDecode := by
  intro base text ws h
  rw [assemble_eq] at h
  cases his : assembleInstrs base text with
  | error e => simp [his, Except.map] at h
  | ok is =>
    obtain rfl : is.map encode = ws := by simpa [his, Except.map] using h
    exact ⟨is, rfl, decode_map_encode (assembleInstrs_wellFormed base text is his)⟩

end Sys2Proof.Machine
end

section
/-!
Arithmetic (40_arithmetic.md R120 to R125): the value each instruction computes, as an integer, and the words that decode
to each instruction. What a register result changes and what it leaves alone is `State.result_spec`.
-/

namespace Sys2Proof

/-! ### The words of `inc` and `dec` -/

/-- R98: the decoder's check of the two register fields, where they differ. -/
theorem checkSrcIsDest_of_ne {w : Word} (i : Instr) (h : faField w ≠ fdField w) :
    checkSrcIsDest w i = .error (.srcNotDest (modeField w)) := if_neg h

theorem decodeWord_inc_of_ne {d a : BitVec 5} (b : BitVec 5) (x : BitVec 9) (h : a ≠ d) :
    decodeWord (formatR 0 2 d a b x) = .error (.srcNotDest 2) := by
  simp [decodeWord, checkSrcIsDest_of_ne, h]

theorem decodeWord_dec_of_ne {d a : BitVec 5} (b : BitVec 5) (x : BitVec 9) (h : a ≠ d) :
    decodeWord (formatR 0 3 d a b x) = .error (.srcNotDest 3) := by
  simp [decodeWord, checkSrcIsDest_of_ne, h]

/-! ### Values -/

/-- Subtraction wraps as integers do: `BitVec.toNat_sub` adds the modulus first, which the remainder forgets. -/
theorem toNat_sub_eq_emod {n : Nat} (x y : BitVec n) :
    ((x - y).toNat : Int) = ((x.toNat : Int) - y.toNat) % 2 ^ n := by
  have hy : y.toNat ≤ 2 ^ n := y.isLt.le
  rw [BitVec.toNat_sub, Int.natCast_mod, Nat.cast_add, Nat.cast_sub hy, Nat.cast_pow, Nat.cast_ofNat,
    sub_add_eq_add_sub, add_sub_assoc, Int.add_emod_left]

end Sys2Proof

namespace Sys2Proof.Machine

/-- R125, signed: the product of two 16-bit integers is at most 2^30 in size, so 32 bits hold it. -/
theorem toInt_multProduct_signed (u v : Word) :
    (multProduct true u v).toInt = (u.extractLsb' 0 16).toInt * (v.extractLsb' 0 16).toInt := by
  have hhigh := BitVec.toInt_mul_toInt_le (x := u.extractLsb' 0 16) (y := v.extractLsb' 0 16)
  have hlow := BitVec.le_toInt_mul_toInt (x := u.extractLsb' 0 16) (y := v.extractLsb' 0 16)
  rw [multProduct, if_pos rfl, BitVec.toInt_mul, BitVec.toInt_signExtend_of_le (by omega),
    BitVec.toInt_signExtend_of_le (by omega)]
  exact Int.bmod_eq_of_le (by omega) (by omega)

/-- R125, unsigned: the product of two numbers below 2^16 is below 2^32. -/
theorem toNat_multProduct_unsigned (u v : Word) :
    (multProduct false u v).toNat = (u.toNat % 2 ^ 16) * (v.toNat % 2 ^ 16) := by
  have hlow (w : Word) : ((w.extractLsb' 0 16).zeroExtend 32).toNat = w.toNat % 2 ^ 16 := by
    rw [BitVec.toNat_setWidth_of_le (by omega), toNat_extract, pow_zero, Nat.div_one]
  have hbound : (u.toNat % 2 ^ 16) * (v.toNat % 2 ^ 16) < 2 ^ 16 * 2 ^ 16 :=
    Nat.mul_lt_mul'' (Nat.mod_lt _ (by decide)) (Nat.mod_lt _ (by decide))
  rw [multProduct, if_neg (by decide), BitVec.toNat_mul, hlow, hlow]
  exact Nat.mod_eq_of_lt hbound

/-! ### Instructions -/

theorem exec_add (d a b : Reg) (s : State) : exec (.add d a b) s = s.result [a, b] d (s.x a + s.x b) := rfl

theorem exec_sub (d a b : Reg) (s : State) : exec (.sub d a b) s = s.result [a, b] d (s.x a - s.x b) := rfl

theorem exec_mult (d a b : Reg) (s : State) :
    exec (.mult d a b) s = s.result [a, b] d (multProduct s.cfg.multSigned (s.x a) (s.x b)) := rfl

theorem exec_inc_self (d : Reg) (s : State) : exec (.inc d d) s = s.result [d] d (s.x d + 1) := if_pos rfl

theorem exec_dec_self (d : Reg) (s : State) : exec (.dec d d) s = s.result [d] d (s.x d - 1) := if_pos rfl

/-- R98, on terms. -/
theorem exec_inc_of_ne {d a : Reg} (s : State) (h : a ≠ d) :
    exec (.inc d a) s = .fault (.reservedEncoding (.srcNotDest 2)) := if_neg h

/-- R98, on terms. -/
theorem exec_dec_of_ne {d a : Reg} (s : State) (h : a ≠ d) :
    exec (.dec d a) s = .fault (.reservedEncoding (.srcNotDest 3)) := if_neg h

/-- An instruction that is a register result answers a next state, and the value it writes has whatever property the
result has. -/
theorem exists_next_of_result {s : State} {i : Instr} {srcs : List Reg} {d : Reg} {v : Word} {P : Word → Prop}
    (hexec : exec i s = s.result srcs d v) (hv : P v) :
    ∃ t u, exec i s = .next t ∧ P u ∧ RegisterResult s t srcs d u := by
  obtain ⟨t, ht, hres⟩ := s.result_spec srcs d v
  exact ⟨t, v, hexec.trans ht, hv, hres⟩

/-! ### The statements -/

/-- Settles O30: the fields of format R are the operands, and the sum and the difference of words wrap. -/
theorem addAndSubWrap : Obligations.AddAndSubWrap := by
  refine ⟨fun d a b x => ⟨?_, ?_⟩, fun d a b s => ⟨?_, ?_⟩⟩
  · exact decodeWord_of_fieldsIn rfl (by simp [Instr.FieldsIn])
  · exact decodeWord_of_fieldsIn rfl (by simp [Instr.FieldsIn])
  · exact exists_next_of_result (exec_add d a b s) (BitVec.toNat_add ..)
  · exact exists_next_of_result (exec_sub d a b s) (toNat_sub_eq_emod ..)

/-- Settles O31: with one register in both fields these are register results that add and subtract 1; with two the
check of R98 fails, in the decoder and in `exec` alike. -/
theorem incAndDecWrap : Obligations.IncAndDecWrap := by
  refine ⟨fun d a b x => ⟨?_, ?_, fun hne => ⟨?_, ?_⟩⟩, fun d a s => ⟨?_, ?_, fun hne => ⟨?_, ?_⟩⟩⟩
  · exact decodeWord_of_fieldsIn (by simp [Instr.wellFormed]) (by simp [Instr.FieldsIn])
  · exact decodeWord_of_fieldsIn (by simp [Instr.wellFormed]) (by simp [Instr.FieldsIn])
  · exact decodeWord_inc_of_ne b x hne
  · exact decodeWord_dec_of_ne b x hne
  · exact exists_next_of_result (exec_inc_self d s) (BitVec.toNat_add ..)
  · exact exists_next_of_result (exec_dec_self d s) (toNat_sub_eq_emod ..)
  · exact exec_inc_of_ne s hne
  · exact exec_dec_of_ne s hne

/-- Settles O32: under either setting of `MULT_SIGNED` no bit of the product is lost. -/
theorem multOfLowHalves : Obligations.MultOfLowHalves := by
  refine ⟨fun d a b x => decodeWord_of_fieldsIn rfl (by simp [Instr.FieldsIn]), fun d a b s => ?_⟩
  obtain ⟨t, ht, hres⟩ := s.result_spec [a, b] d (multProduct s.cfg.multSigned (s.x a) (s.x b))
  refine ⟨t, _, (exec_mult d a b s).trans ht, hres, ?_⟩
  cases s.cfg.multSigned with
  | true => exact toInt_multProduct_signed _ _
  | false => exact toNat_multProduct_unsigned _ _

end Sys2Proof.Machine
end

section
/-!
Logical (41_logical.md R130 to R134): the bits of each result. What a register result changes and what it leaves alone is
`State.result_spec`.
-/

namespace Sys2Proof.Machine

/-! ### Instructions -/

theorem exec_and (d a b : Reg) (s : State) : exec (.and d a b) s = s.result [a, b] d (s.x a &&& s.x b) := rfl

theorem exec_or (d a b : Reg) (s : State) : exec (.or d a b) s = s.result [a, b] d (s.x a ||| s.x b) := rfl

theorem exec_xor (d a b : Reg) (s : State) : exec (.xor d a b) s = s.result [a, b] d (s.x a ^^^ s.x b) := rfl

theorem exec_not (d a : Reg) (s : State) : exec (.not d a) s = s.result [a] d (~~~ s.x a) := rfl

/-- `exists_next_of_result` for a property of the bits of the value, R130: each position on its own. -/
theorem exists_next_of_result_bits {s : State} {i : Instr} {srcs : List Reg} {d : Reg} {v : Word} {bit : Nat → Prop}
    (hexec : exec i s = s.result srcs d v) (hv : ∀ k < 32, v.getLsbD k = true ↔ bit k) :
    ∃ t u, exec i s = .next t ∧ RegisterResult s t srcs d u ∧ ∀ k < 32, u.getLsbD k = true ↔ bit k := by
  obtain ⟨t, u, ht, hbits, hres⟩ :=
    exists_next_of_result (P := fun u => ∀ k < 32, u.getLsbD k = true ↔ bit k) hexec hv
  exact ⟨t, u, ht, hres, hbits⟩

/-! ### The statement -/

/-- Settles O33: the fields of format R are the operands, and each operation on words is the operation of its name on the
bits at each position. Only the complement needs the position to lie in the word. -/
theorem logicalBitByBit : Obligations.LogicalBitByBit := by
  refine ⟨fun d a b x => ⟨?_, ?_, ?_, ?_⟩, fun d a b s => ⟨?_, ?_, ?_, ?_⟩⟩
  · exact decodeWord_of_fieldsIn rfl (by simp [Instr.FieldsIn])
  · exact decodeWord_of_fieldsIn rfl (by simp [Instr.FieldsIn])
  · exact decodeWord_of_fieldsIn rfl (by simp [Instr.FieldsIn])
  · exact decodeWord_of_fieldsIn rfl (by simp [Instr.FieldsIn])
  · exact exists_next_of_result_bits (exec_and d a b s) fun k _ => by rw [BitVec.getLsbD_and, Bool.and_eq_true]
  · exact exists_next_of_result_bits (exec_or d a b s) fun k _ => by rw [BitVec.getLsbD_or, Bool.or_eq_true]
  · exact exists_next_of_result_bits (exec_xor d a b s) fun k _ => by rw [BitVec.getLsbD_xor, bne_iff_ne]
  · exact exists_next_of_result_bits (exec_not d a s) fun k hk => by
      rw [BitVec.getLsbD_not, decide_eq_true hk, Bool.true_and, Bool.not_eq_true']

end Sys2Proof.Machine
end

section
/-!
Shifts (42_shift.md R140 to R146): the amount is the low five bits of `$b`, `State.shiftAmount_eq`; the shifts as floors
and remainders, the rotates as permutations of the bit positions. What a register result changes and what it leaves alone is
`State.result_spec`.
-/

namespace Sys2Proof

/-! ### Values -/

/-- R141: the arithmetic shift is the floor, negative values included, since the divisor is positive. -/
theorem toInt_sshiftRight_eq_div {w : Nat} (x : BitVec w) (n : Nat) : (x.sshiftRight n).toInt = x.toInt / 2 ^ n := by
  rw [BitVec.toInt_sshiftRight, Int.shiftRight_eq_div_pow, Nat.cast_pow, Nat.cast_ofNat]

/-- R142. -/
theorem toNat_ushiftRight_eq_div {w : Nat} (x : BitVec w) (n : Nat) : (x >>> n).toNat = x.toNat / 2 ^ n := by
  rw [BitVec.toNat_ushiftRight, Nat.shiftRight_eq_div_pow]

/-- R143. -/
theorem toNat_shiftLeft_eq_mul_mod {w : Nat} (x : BitVec w) (n : Nat) :
    (x <<< n).toNat = x.toNat * 2 ^ n % 2 ^ w := by
  rw [BitVec.toNat_shiftLeft, Nat.shiftLeft_eq]

/-- A position that passes the top of the word goes on at the bottom. -/
theorem add_mod_eq_sub_of_le {w n k : Nat} (hn : n < w) (hk : k < w) (hwrap : w ≤ k + n) :
    (k + n) % w = k + n - w := by
  rw [Nat.mod_eq_sub_mod hwrap, Nat.mod_eq_of_lt (by omega)]

/-- R144: bit `k` moves up by `n`, modulo the width. -/
theorem getLsbD_rotateLeft_add_mod {w n k : Nat} (x : BitVec w) (hn : n < w) (hk : k < w) :
    (x.rotateLeft n).getLsbD ((k + n) % w) = x.getLsbD k := by
  rw [BitVec.getLsbD_rotateLeft_of_le hn]
  by_cases hwrap : k + n < w
  · have hnot : ¬ k + n < n := by omega
    simp [Nat.mod_eq_of_lt hwrap, hnot, hwrap]
  · have hpos := add_mod_eq_sub_of_le hn hk (Nat.le_of_not_lt hwrap)
    have hlow : k + n - w < n := by omega
    have hback : w - n + (k + n - w) = k := by omega
    simp [hpos, hlow, hback]

/-- R145: the bit `n` above `k` moves down to `k`, modulo the width. -/
theorem getLsbD_rotateRight_eq_add_mod {w n k : Nat} (x : BitVec w) (hn : n < w) (hk : k < w) :
    (x.rotateRight n).getLsbD k = x.getLsbD ((k + n) % w) := by
  rw [BitVec.getLsbD_rotateRight_of_lt hn]
  by_cases hwrap : k + n < w
  · have hlow : k < w - n := by omega
    simp [Nat.mod_eq_of_lt hwrap, hlow, Nat.add_comm n k]
  · have hpos := add_mod_eq_sub_of_le hn hk (Nat.le_of_not_lt hwrap)
    have hnot : ¬ k < w - n := by omega
    have hback : k - (w - n) = k + n - w := by omega
    simp [hpos, hnot, hk, hback]

end Sys2Proof

namespace Sys2Proof.Machine

/-! ### Instructions -/

theorem exec_sra (d a b : Reg) (s : State) :
    exec (.sra d a b) s = s.result [a, b] d ((s.x a).sshiftRight ((s.x b).toNat % 32)) := by
  rw [← s.shiftAmount_eq]
  rfl

theorem exec_srl (d a b : Reg) (s : State) :
    exec (.srl d a b) s = s.result [a, b] d (s.x a >>> ((s.x b).toNat % 32)) := by
  rw [← s.shiftAmount_eq]
  rfl

theorem exec_sl (d a b : Reg) (s : State) :
    exec (.sl d a b) s = s.result [a, b] d (s.x a <<< ((s.x b).toNat % 32)) := by
  rw [← s.shiftAmount_eq]
  rfl

theorem exec_rol (d a b : Reg) (s : State) :
    exec (.rol d a b) s = s.result [a, b] d ((s.x a).rotateLeft ((s.x b).toNat % 32)) := by
  rw [← s.shiftAmount_eq, ← rotateWordLeft_eq_rotateLeft _ (s.shiftAmount_lt b)]
  rfl

theorem exec_ror (d a b : Reg) (s : State) :
    exec (.ror d a b) s = s.result [a, b] d ((s.x a).rotateRight ((s.x b).toNat % 32)) := by
  rw [← s.shiftAmount_eq, ← rotateWordRight_eq_rotateRight _ (s.shiftAmount_lt b)]
  rfl

/-- `exists_next_of_result` in the order of the statements about shifts: the frame, then the property of the value. -/
theorem exists_next_of_result_frame {s : State} {i : Instr} {srcs : List Reg} {d : Reg} {v : Word} {P : Word → Prop}
    (hexec : exec i s = s.result srcs d v) (hv : P v) :
    ∃ t u, exec i s = .next t ∧ RegisterResult s t srcs d u ∧ P u := by
  obtain ⟨t, u, ht, hu, hres⟩ := exists_next_of_result hexec hv
  exact ⟨t, u, ht, hres, hu⟩

/-! ### The statements -/

/-- Settles O34: the fields of format R are the operands, and each shift of a word is the floor or the remainder of its
rule. -/
theorem shiftsByTheLowFiveBits : Obligations.ShiftsByTheLowFiveBits := by
  refine ⟨fun d a b x => ⟨?_, ?_, ?_⟩, fun d a b s => ⟨?_, ?_, ?_⟩⟩
  · exact decodeWord_of_fieldsIn rfl (by simp [Instr.FieldsIn])
  · exact decodeWord_of_fieldsIn rfl (by simp [Instr.FieldsIn])
  · exact decodeWord_of_fieldsIn rfl (by simp [Instr.FieldsIn])
  · exact exists_next_of_result_frame (exec_sra d a b s) (toInt_sshiftRight_eq_div ..)
  · exact exists_next_of_result_frame (exec_srl d a b s) (toNat_ushiftRight_eq_div ..)
  · exact exists_next_of_result_frame (exec_sl d a b s) (toNat_shiftLeft_eq_mul_mod ..)

/-- Settles O35: the model's two half shifts are the rotates of words (`rotateWordLeft_eq_rotateLeft`,
`rotateWordRight_eq_rotateRight`), and those permute the positions modulo 32. -/
theorem rotatesMoveEveryBit : Obligations.RotatesMoveEveryBit := by
  refine ⟨fun d a b x => ⟨?_, ?_⟩, fun d a b s => ?_⟩
  · exact decodeWord_of_fieldsIn rfl (by simp [Instr.FieldsIn])
  · exact decodeWord_of_fieldsIn rfl (by simp [Instr.FieldsIn])
  · have hn : (s.x b).toNat % 32 < 32 := Nat.mod_lt _ (by decide)
    exact ⟨exists_next_of_result_frame (exec_rol d a b s) fun _ hk => getLsbD_rotateLeft_add_mod _ hn hk,
      exists_next_of_result_frame (exec_ror d a b s) fun _ hk => getLsbD_rotateRight_eq_add_mod _ hn hk⟩

end Sys2Proof.Machine
end

section
/-!
nop (43_nop.md R150, R151): the check of its constant fields in the decoder, and the addition of register 0 to register 0,
of which only the advance of `pc` is left.
-/

namespace Sys2Proof

/-! ### The words of `nop` -/

/-- R97: the decoder's check of the constant fields, where it fails. -/
theorem checkFixed_of_eq_false {w : Word} {ok : Bool} (i : Instr) (h : ok = false) :
    checkFixed w ok i = .error (.fixedField (opField w) (modeField w)) := if_neg (by simp [h])

theorem decodeWord_nop_of_ne {d a b : BitVec 5} (x : BitVec 9) (h : ¬ (d = 0 ∧ a = 0 ∧ b = 0)) :
    decodeWord (formatR 4 0 d a b x) = .error (.fixedField 4 0) := by
  have hcheck : (d == 0 && a == 0 && b == 0) = false := by simpa [and_assoc] using h
  have hword : decodeWord (formatR 4 0 d a b x) =
      checkFixed (formatR 4 0 d a b x) (d == 0 && a == 0 && b == 0) .nop := by simp [decodeWord]
  rw [hword, checkFixed_of_eq_false _ hcheck, opField_formatR, modeField_formatR]

end Sys2Proof

namespace Sys2Proof.Machine

/-! ### The instruction -/

theorem exec_nop (s : State) : exec .nop s = s.result [.zero, .zero] .zero (s.x .zero + s.x .zero) := rfl

/-- A result for register 0 is discarded (R21); without a read of register 29 no key is consumed (R24), so `pc` moves and
nothing else. -/
theorem State.result_zero (s : State) {srcs : List Reg} (v : Word) (h : .port ∉ srcs) :
    s.result srcs .zero v = .next s.advance := by
  rw [State.result, State.afterReads_eq, if_neg h, State.setX_zero]

/-! ### The statement -/

/-- Settles O36: the decoder checks just the three constant fields (R97), and the sum of register 0 with itself is a
result for register 0 that reads no key. -/
theorem nopOnlyAdvances : Obligations.NopOnlyAdvances := by
  refine ⟨fun x => ?_, fun d a b x hne => ?_, fun s => ?_⟩
  · exact decodeWord_of_fieldsIn rfl (by simp [Instr.FieldsIn])
  · exact decodeWord_nop_of_ne x hne
  · exact (exec_nop s).trans (s.result_zero _ (by decide))

end Sys2Proof.Machine
end

section
/-!
Immediates (44_immediate.md R155 to R158): the half of the register that is replaced and the half that is kept. What a
register result changes and what it leaves alone is `State.result_spec`.
-/

namespace Sys2Proof.Machine

/-! ### Instructions -/

theorem exec_lli (d : Reg) (k : BitVec 16) (s : State) :
    exec (.lli d k) s = s.result [d] d ((s.x d).extractLsb' 16 16 ++ k) := rfl

theorem exec_lui (d : Reg) (k : BitVec 16) (s : State) :
    exec (.lui d k) s = s.result [d] d (k ++ (s.x d).extractLsb' 0 16) := rfl

/-- A register result, seen from a destination that stores (R22). -/
theorem exists_next_dest_of_result {s : State} {i : Instr} {srcs : List Reg} {d : Reg} {v : Word}
    (hexec : exec i s = s.result srcs d v) (hz : d ≠ .zero) (hp : d ≠ .port) :
    ∃ t, exec i s = .next t ∧ t.x d = v := by
  obtain ⟨t, ht, hres⟩ := s.result_spec srcs d v
  obtain ⟨hdest, -⟩ := hres.dest
  exact ⟨t, hexec.trans ht, hdest hz hp⟩

/-! ### The statements -/

/-- Settles O37: the decoder does not read bits 18:16, and each half of a concatenation is the part it was made of. -/
theorem immediatesReplaceOneHalf : Obligations.ImmediatesReplaceOneHalf := by
  refine ⟨fun d x k => ⟨?_, ?_⟩, fun d k s => ⟨?_, ?_⟩⟩
  · exact decodeWord_of_fieldsIn rfl (by simp [Instr.FieldsIn])
  · exact decodeWord_of_fieldsIn rfl (by simp [Instr.FieldsIn])
  · exact exists_next_of_result_frame (exec_lli d k s)
      ⟨BitVec.extractLsb'_append_eq_left, BitVec.extractLsb'_append_eq_right⟩
  · exact exists_next_of_result_frame (exec_lui d k s)
      ⟨BitVec.extractLsb'_append_eq_left, BitVec.extractLsb'_append_eq_right⟩

/-- Settles O38: the second instruction keeps the half that the first one loaded, and the two halves of the constant, side
by side, are the constant. -/
theorem twoImmediatesLoadAnyConstant : Obligations.TwoImmediatesLoadAnyConstant := by
  intro s d k hz hp
  have hhalves : k.extractLsb' 16 16 ++ k.extractLsb' 0 16 = k := BitVec.extractLsb'_append_extractLsb'
  constructor
  · obtain ⟨t, ht, htd⟩ := exists_next_dest_of_result (exec_lli d (k.extractLsb' 0 16) s) hz hp
    obtain ⟨u, hu, hud⟩ := exists_next_dest_of_result (exec_lui d (k.extractLsb' 16 16) t) hz hp
    refine ⟨t, u, ht, hu, ?_⟩
    rw [hud, htd, BitVec.extractLsb'_append_eq_right, hhalves]
  · obtain ⟨t, ht, htd⟩ := exists_next_dest_of_result (exec_lui d (k.extractLsb' 16 16) s) hz hp
    obtain ⟨u, hu, hud⟩ := exists_next_dest_of_result (exec_lli d (k.extractLsb' 0 16) t) hz hp
    refine ⟨t, u, ht, hu, ?_⟩
    rw [hud, htd, BitVec.extractLsb'_append_eq_left, hhalves]

end Sys2Proof.Machine
end

section
/-!
Memory instructions (45_memory.md R160 to R163): the effective address as an integer, what an instruction leaves unchanged
in the devices, and from these lw, sw and svga.
-/

namespace Sys2Proof.Machine

/-! ### The effective address -/

/-- R54: truncation keeps the low 18 bits. -/
theorem toNat_trunc18 (v : Word) : (trunc18 v).toNat = v.toNat % 2 ^ 18 := by
  rw [trunc18, toNat_extract, pow_zero, Nat.div_one]

/-- R53, R160: the offset is signed, and since 2^18 divides 2^32 the wrap of the 32-bit sum does not show in the address. -/
theorem State.toNat_effAddr (s : State) (a : Reg) (o : BitVec 9) :
    ((s.effAddr a o).toNat : Int) = ((s.x a).toNat + o.toInt) % 2 ^ 18 := by
  have hoff : (o.signExtend 32).toInt = o.toInt := BitVec.toInt_signExtend_of_le (by decide)
  rw [State.effAddr, toNat_trunc18, BitVec.toNat_add, ← hoff, BitVec.toInt_eq_toNat_cond]
  split <;> omega

/-! ### What register reads and writes leave unchanged in the devices -/

@[simp] theorem State.setX_kbdReady (s : State) (d : Reg) (v : Word) : (s.setX d v).kbdReady = s.kbdReady := by
  obtain ⟨-, -, hready, -⟩ := s.setX_other d v
  exact hready

@[simp] theorem State.setX_kbdChar (s : State) (d : Reg) (v : Word) : (s.setX d v).kbdChar = s.kbdChar := by
  obtain ⟨-, -, -, hchar, -⟩ := s.setX_other d v
  exact hchar

@[simp] theorem State.setX_pixReady (s : State) (d : Reg) (v : Word) : (s.setX d v).pixReady = s.pixReady := by
  obtain ⟨-, -, -, -, hready, -⟩ := s.setX_other d v
  exact hready

@[simp] theorem State.setX_pixOut (s : State) (d : Reg) (v : Word) : (s.setX d v).pixOut = s.pixOut := by
  obtain ⟨-, -, -, -, -, hout, -⟩ := s.setX_other d v
  exact hout

/-- Only a write of register 29 is a character request (R23, R25). -/
theorem State.setX_sameCharChannel (s : State) {d : Reg} (v : Word) (hd : d ≠ .port) :
    SameCharChannel s (s.setX d v) := by
  have hchars := s.setX_chars d v
  rwa [if_neg fun h => hd h.1] at hchars

@[simp] theorem State.afterReads_charOut (s : State) (srcs : List Reg) :
    (s.afterReads srcs).charOut = s.charOut := by
  obtain ⟨-, -, -, -, hout, -⟩ := s.afterReads_other srcs
  exact hout

@[simp] theorem State.afterReads_pixOut (s : State) (srcs : List Reg) : (s.afterReads srcs).pixOut = s.pixOut := by
  obtain ⟨-, -, -, -, -, -, hout, -⟩ := s.afterReads_other srcs
  exact hout

/-! ### What an instruction does to the devices -/

/-- The keyboard after any instruction is the keyboard after its register reads: no other part of an effect touches it. -/
theorem ExecEffect.keyboardAfter {s t : State} {i : Instr} (h : ExecEffect s i t) :
    KeyboardAfter s t (sourceRegs i) := by
  have hreads := s.afterReads_keyboard (sourceRegs i)
  cases h with
  | register | jump => simpa [KeyboardAfter] using hreads
  | sw | svga => exact hreads
  | jal | pop => simp [KeyboardAfter, sourceRegs]
  | @push b =>
    have hb := s.afterReads_keyboard [b]
    simpa [KeyboardAfter, sourceRegs] using hb

/-- The character channel changes only by a write of register 29. -/
theorem ExecEffect.sameCharChannel {s t : State} {i : Instr} (h : ExecEffect s i t) (hi : .port ∉ destRegs i) :
    SameCharChannel s t := by
  cases h with
  | @register _ d v hd =>
    have hne : d ≠ .port := by
      rcases hd with hd | ⟨rfl, -⟩
      · rintro rfl
        simp [hd] at hi
      · nofun
    simpa [SameCharChannel] using (s.afterReads (sourceRegs i)).setX_sameCharChannel v hne
  | jump | jal | sw | svga | push => simp [SameCharChannel]
  | @pop d v =>
    have hne : d ≠ .port := by
      rintro rfl
      simp [destRegs] at hi
    simpa [SameCharChannel] using (s.setX .sp (s.sp + 1)).setX_sameCharChannel v hne

/-- The pixel channel changes only by `svga`. -/
theorem ExecEffect.samePixelChannel {s t : State} {i : Instr} (h : ExecEffect s i t) (hi : ∀ b, i ≠ .svga b) :
    SamePixelChannel s t := by
  cases h with
  | register | jump | jal | sw | push | pop => simp [SamePixelChannel]
  | @svga b => exact absurd rfl (hi b)

/-! ### svga -/

/-- R225: a ready channel accepts the word. -/
theorem State.pixWrite_of_ready {s : State} (w : Word) (h : s.pixReady = true) :
    ∃ t, s.pixWrite w = .next t ∧ t.pixOut = s.pixOut ++ [w] := by
  simp [State.pixWrite, h]

/-- R225, D17: there is no meaning for a request to a channel that is not ready. -/
theorem State.pixWrite_of_not_ready {s : State} (w : Word) (h : s.pixReady = false) :
    s.pixWrite w = .fault .pixelChannelNotReady := by
  simp [State.pixWrite, h]

theorem exec_svga (b : Reg) (s : State) :
    exec (.svga b) s = onNext ((s.afterReads [b]).pixWrite (s.x b)) State.advance := rfl

/-- R163, where the channel is ready. -/
theorem exec_svga_of_ready {s : State} (b : Reg) (h : s.pixReady = true) :
    ∃ t, exec (.svga b) s = .next t ∧ t.pixOut = s.pixOut ++ [s.x b] := by
  obtain ⟨u, hu, hout⟩ := State.pixWrite_of_ready (s.x b) ((s.afterReads_pixReady [b]).trans h)
  refine ⟨u.advance, ?_, ?_⟩
  · rw [exec_svga, hu, onNext]
  · rw [State.advance_pixOut, hout, State.afterReads_pixOut]

/-- R163, where the channel is not ready (D17, log 13). -/
theorem exec_svga_of_not_ready {s : State} (b : Reg) (h : s.pixReady = false) :
    exec (.svga b) s = .fault .pixelChannelNotReady := by
  rw [exec_svga, State.pixWrite_of_not_ready _ ((s.afterReads_pixReady [b]).trans h), onNext]

/-! ### The statements -/

/-- Settles O39: the decoder does not read `fb`, and the load of a cell that holds a value is a register result. -/
theorem loadWord : Obligations.LoadWord := by
  refine ⟨fun d a b o => ?_, fun d a o s v hcell => ⟨s.toNat_effAddr a o, exec_lw_spec hcell⟩⟩
  exact decodeWord_of_fieldsIn rfl (by simp [Instr.FieldsIn])

/-- Settles O40: what the store does to memory and to the keyboard is `exec_sw_spec`; the rest is the frame that every
instruction has which writes no register and is not `svga`. -/
theorem storeWord : Obligations.StoreWord := by
  refine ⟨fun d a b o => ?_, fun b a o s htext => ⟨s.toNat_effAddr a o, ?_⟩⟩
  · exact decodeWord_of_fieldsIn rfl (by simp [Instr.FieldsIn])
  · obtain ⟨t, hexec, hcell, hothers, hkeyboard, -⟩ := exec_sw_spec (b := b) htext
    have heffect := exec_effect hexec
    exact ⟨t, hexec, hcell, hothers, heffect.sameRegsBut, hkeyboard, heffect.sameCharChannel List.not_mem_nil,
      heffect.samePixelChannel nofun, heffect.sameRun, heffect.pc_of_not_assignsPc rfl⟩

/-- Settles O41: a ready channel accepts the word, and the rest is the frame that every instruction has which writes no
register and stores nothing; a channel that is not ready is the fault. -/
theorem sendPixel : Obligations.SendPixel := by
  refine ⟨fun d a b x => ?_, fun b s => ⟨fun hready => ?_, exec_svga_of_not_ready b⟩⟩
  · exact decodeWord_of_fieldsIn rfl (by simp [Instr.FieldsIn])
  · obtain ⟨t, hexec, hout⟩ := exec_svga_of_ready b hready
    have heffect := exec_effect hexec
    obtain ⟨hmemory, -⟩ := onlyStoresChangeMemory _ s t hexec
    exact ⟨t, hexec, hout, heffect.sameRegsBut, heffect.keyboardAfter, fun c => hmemory c nofun,
      heffect.sameCharChannel List.not_mem_nil, heffect.sameRun, heffect.pc_of_not_assignsPc rfl⟩

end Sys2Proof.Machine
end

section
/-!
Stack instructions (46_stack.md R170 to R175): the address of each as an integer, what each does to its cell and to
register 30, and from these push and pop, alone and one after the other.
-/

namespace Sys2Proof

/-! ### The words of `push` and `pop` -/

theorem decodeWord_push_of_ne {a : BitVec 5} (d b : BitVec 5) (x : BitVec 9) (h : a ≠ 30) :
    decodeWord (formatR 10 0 d a b x) = .error (.fixedField 10 0) := by
  simpa [decodeWord, checkFixed] using h

theorem decodeWord_pop_of_ne {a : BitVec 5} (d b : BitVec 5) (x : BitVec 9) (h : a ≠ 30) :
    decodeWord (formatR 11 0 d a b x) = .error (.fixedField 11 0) := by
  simpa [decodeWord, checkFixed] using h

end Sys2Proof

namespace Sys2Proof.Machine

/-! ### The stack cells -/

theorem State.toNat_pushAddr (s : State) : s.pushAddr.toNat = s.sp.toNat % 2 ^ 18 := toNat_trunc18 s.sp

/-- R174: since 2^18 divides 2^32, the wrap of the 32-bit sum does not show in the address. -/
theorem State.toNat_popAddr (s : State) :
    s.popAddr.toNat = (s.sp.toNat + s.cfg.popAddrOffset.val) % 2 ^ 18 := by
  rw [State.popAddr, toNat_trunc18, BitVec.toNat_add, BitVec.toNat_ofNat]
  omega

/-- R175: with an offset of 1, `pop` reads the cell a `push` has stored to when it decremented register 30. -/
theorem State.popAddr_eq_pushAddr {s t : State} (hoffset : t.cfg.popAddrOffset = 1) (hsp : t.sp = s.sp - 1) :
    t.popAddr = s.pushAddr := by
  have hone : BitVec.ofNat 32 (1 : Fin 2).val = 1 := rfl
  rw [State.popAddr, State.pushAddr, hoffset, hsp, hone, BitVec.sub_add_cancel]

/-! ### Instructions -/

/-- R172, outside the program text: the value stored and the one decremented are those from before the instruction. -/
theorem exec_push_spec {s : State} (b : Reg) (h : s.inText s.pushAddr = false) :
    ∃ t, exec (.push b) s = .next t ∧ t.readCell s.pushAddr = some (s.x b) ∧ t.x .sp = s.x .sp - 1 := by
  have hstore := State.storeCell_of_not_inText (s := s.afterReads [b]) (s.x b) ((s.inText_afterReads _ _).trans h)
  have hcell := ((s.afterReads [b]).readCell_write s.pushAddr s.pushAddr (s.x b)).trans (if_pos rfl)
  exact ⟨_, congrArg (onNext · fun t => (t.setX .sp (s.sp - 1)).advance) hstore, hcell, rfl⟩

theorem exec_pop (d : Reg) (s : State) :
    exec (.pop d) s = if d = .sp then .refused .popIntoStackPointer
      else s.withCell s.popAddr fun v => ((s.setX .sp (s.sp + 1)).setX d v).advance := rfl

/-- R173, from a cell that holds `v`: with register 30 incremented first, what is left is a register result. -/
theorem exec_pop_eq_result {s : State} {d : Reg} {v : Word} (hd : d ≠ .sp) (hcell : s.readCell s.popAddr = some v) :
    exec (.pop d) s = (s.setX .sp (s.sp + 1)).result [] d v := by
  rw [exec_pop, if_neg hd, State.withCell_of_some _ hcell]
  rfl

/-- R173: the destination is not register 30, so the increment stands, and it is not seen by the write of the destination. -/
theorem exec_pop_spec {s : State} {d : Reg} {v : Word} (hd : d ≠ .sp) (hcell : s.readCell s.popAddr = some v) :
    ∃ t, exec (.pop d) s = .next t ∧ Receives s t d v ∧ t.x .sp = s.x .sp + 1 := by
  obtain ⟨t, ht, hres⟩ := (s.setX .sp (s.sp + 1)).result_spec [] d v
  have hsp : t.x .sp = s.x .sp + 1 := hres.regs .sp nofun (by simpa using hd.symm)
  exact ⟨t, (exec_pop_eq_result hd hcell).trans ht, hres.dest, hsp⟩

/-! ### The statements -/

/-- Settles O42: the store and the decrement are `exec_push_spec`; the rest is the frame that every instruction has which
writes register 30 only and is not `svga`. -/
theorem pushStoresThenDecrements : Obligations.PushStoresThenDecrements := by
  refine ⟨fun d b x => ?_, fun d a b x hne => decodeWord_push_of_ne d b x hne,
    fun b s htext => ⟨s.toNat_pushAddr, ?_⟩⟩
  · exact decodeWord_of_fieldsIn rfl (by simp [Instr.FieldsIn])
  · obtain ⟨t, hexec, hcell, hsp⟩ := exec_push_spec b htext
    have heffect := exec_effect hexec
    obtain ⟨hmemory, -⟩ := onlyStoresChangeMemory _ s t hexec
    have hothers : SameMemoryBut s t s.pushAddr := fun c hc => hmemory c fun hst => hc (Option.some.inj hst).symm
    have hdecrement : ((t.x .sp).toNat : Int) = ((s.x .sp).toNat - 1 : Int) % 2 ^ 32 := by
      rw [hsp]
      exact toNat_sub_eq_emod (s.x .sp) 1
    have hkeyboard : KeyboardAfter s t [b] := by simpa [KeyboardAfter, sourceRegs] using heffect.keyboardAfter
    exact ⟨t, hexec, hcell, hothers, hdecrement, heffect.sameRegsBut, hkeyboard,
      heffect.sameCharChannel (by simp [destRegs]), heffect.samePixelChannel nofun, heffect.sameRun,
      heffect.pc_of_not_assignsPc rfl⟩

/-- Settles O43: the destination and the increment are `exec_pop_spec`; the rest is the frame that every instruction has
which stores nothing and is not `svga`. -/
theorem popLoadsAndIncrements : Obligations.PopLoadsAndIncrements := by
  refine ⟨fun d b x => ?_, fun d a b x hne => decodeWord_pop_of_ne d b x hne,
    fun d s v hd hcell => ⟨s.toNat_popAddr, ?_⟩⟩
  · exact decodeWord_of_fieldsIn rfl (by simp [Instr.FieldsIn])
  · obtain ⟨t, hexec, hdest, hsp⟩ := exec_pop_spec hd hcell
    have heffect := exec_effect hexec
    obtain ⟨hmemory, -⟩ := onlyStoresChangeMemory _ s t hexec
    have hincrement : (t.x .sp).toNat = ((s.x .sp).toNat + 1) % 2 ^ 32 := by
      rw [hsp]
      exact BitVec.toNat_add (s.x .sp) 1
    have hkeyboard : KeyboardAfter s t [] := by simpa [KeyboardAfter, sourceRegs] using heffect.keyboardAfter
    exact ⟨t, hexec, hdest, hincrement, heffect.sameRegsBut, hkeyboard, fun c => hmemory c nofun,
      heffect.samePixelChannel nofun, heffect.sameRun, heffect.pc_of_not_assignsPc rfl⟩

/-- Settles O44: the refusal stands before every read. -/
theorem popIntoStackPointerIsRefused : Obligations.PopIntoStackPointerIsRefused := fun s =>
  (exec_pop .sp s).trans (if_pos rfl)

/-- Settles O45: `pop` finds its cell where `push` stored, and its increment undoes the decrement; every other register is
in neither's list of destinations. -/
theorem popUndoesPush : Obligations.PopUndoesPush := by
  intro s b d hoffset htext _ hz hp hd
  obtain ⟨t, hpush, hcell, hspPush⟩ := exec_push_spec b htext
  have hpushEffect := exec_effect hpush
  obtain ⟨hcfg, -⟩ := hpushEffect.sameRun
  have haddr : t.popAddr = s.pushAddr := State.popAddr_eq_pushAddr (hcfg ▸ hoffset) hspPush
  obtain ⟨u, hpop, ⟨hdest, -⟩, hspPop⟩ := exec_pop_spec hd (haddr ▸ hcell)
  obtain ⟨hmemory, -⟩ := onlyStoresChangeMemory _ t u hpop
  have hsp : u.x .sp = s.x .sp := by rw [hspPop, hspPush, BitVec.sub_add_cancel]
  refine ⟨t, u, hpush, hpop, hdest hz hp, hsp, (hmemory _ nofun).trans hcell, fun r hr hrd => ?_⟩
  by_cases hrsp : r = .sp
  · rw [hrsp, hsp]
  · have hpopKeeps : u.x r = t.x r := (exec_effect hpop).sameRegsBut r hr (by simpa [destRegs, hrsp] using hrd)
    have hpushKeeps : t.x r = s.x r := hpushEffect.sameRegsBut r hr (by simpa [destRegs] using hrsp)
    exact hpopKeeps.trans hpushKeeps

end Sys2Proof.Machine
end

section
/-!
Jumps (47_jump.md R180 to R185): the words of jr and jal, the link of jal as an integer and as the address jr goes back
to, and from these a jump alone and a call with its return.
-/

namespace Sys2Proof

/-! ### The words of `jal` -/

theorem decodeWord_jal_of_ne {d : BitVec 5} (x : BitVec 1) (a : Addr) (h : d ≠ 31) :
    decodeWord (formatJ 7 1 d x a) = .error (.fixedField 7 1) := by
  simpa [decodeWord, checkFixed] using h

end Sys2Proof

namespace Sys2Proof.Machine

/-! ### The link -/

/-- R54, R181: an address that is widened to a word, as a link is (D6), survives the truncation. -/
theorem trunc18_zeroExtend (a : Addr) : trunc18 (a.zeroExtend 32) = a := by
  apply BitVec.eq_of_toNat_eq
  rw [toNat_trunc18, BitVec.toNat_setWidth_of_le (by decide)]
  exact Nat.mod_eq_of_lt a.isLt

/-- R184: the link is `pc + 1`, which wraps at 2^18 and not at 2^32. -/
theorem toNat_link (pc : Addr) : ((pc + 1).zeroExtend 32).toNat = (pc.toNat + 1) % 2 ^ 18 := by
  rw [BitVec.toNat_setWidth_of_le (by decide), BitVec.toNat_add]
  rfl

/-! ### Instructions -/

theorem exec_jr (a : Reg) (s : State) :
    exec (.jr a) s = .next ((s.afterReads [a]).jumpTo (trunc18 (s.x a))) := rfl

theorem exec_jal (a : Addr) (s : State) :
    exec (.jal a) s = .next ((s.setX .ra ((s.pc + 1).zeroExtend 32)).jumpTo a) := rfl

/-! ### The statements -/

/-- Settles O46: the decoder reads `fa` only, and a jump moves nothing but `pc`. -/
theorem jumpRegister : Obligations.JumpRegister := by
  refine ⟨fun d a b x => ?_, fun a s => ⟨_, _, exec_jr a s, s.onlyPcMoves [a] _, toNat_trunc18 _⟩⟩
  exact decodeWord_of_fieldsIn rfl (by simp [Instr.FieldsIn])

/-- Settles O47: the decoder checks that `fd` is 31 (R97); the rest is the frame that every instruction has which writes
register 31 only, stores nothing and is not `svga`. -/
theorem jumpAndLink : Obligations.JumpAndLink := by
  refine ⟨fun x a => ?_, fun d x a hne => decodeWord_jal_of_ne x a hne, fun a s => ?_⟩
  · exact decodeWord_of_fieldsIn rfl (by simp [Instr.FieldsIn])
  · have hexec := exec_jal a s
    have heffect := exec_effect hexec
    obtain ⟨hmemory, -⟩ := onlyStoresChangeMemory _ s _ hexec
    exact ⟨_, hexec, rfl, toNat_link s.pc, heffect.sameRegsBut, heffect.keyboardAfter, fun c => hmemory c nofun,
      heffect.sameCharChannel (by simp [destRegs]), heffect.samePixelChannel nofun, heffect.sameRun⟩

/-- Settles O48: register 31 holds the link, and the truncation of `jr` gives back the address it was widened from. -/
theorem returnFollowsCall : Obligations.ReturnFollowsCall := by
  intro s t later a hcall hlink
  obtain rfl : _ = t := Host.Outcome.next.inj ((exec_jal a s).symm.trans hcall)
  have hra : later.x .ra = (s.pc + 1).zeroExtend 32 := hlink
  refine ⟨_, exec_jr .ra later, ?_⟩
  rw [State.jumpTo_pc, hra, trunc18_zeroExtend]

end Sys2Proof.Machine
end

section
/-!
Branches (48_branch.md R190 to R199): each is `State.branch` under its condition, so what is left to say is the words of
each and what its condition means. Where a branch goes and what it leaves alone is `State.branch_spec`.
-/

namespace Sys2Proof

/-! ### The words of format B -/

section FormatB

variable (op mode : BitVec 4) (o : BitVec 14) (a b : BitVec 5)

@[simp] theorem opField_formatB : opField (formatB op mode o a b) = op := opField_formatR ..

@[simp] theorem modeField_formatB : modeField (formatB op mode o a b) = mode := modeField_formatR ..

@[simp] theorem faField_formatB : faField (formatB op mode o a b) = a := faField_formatR ..

@[simp] theorem fbField_formatB : fbField (formatB op mode o a b) = b := fbField_formatR ..

end FormatB

end Sys2Proof

namespace Sys2Proof.Machine

/-! ### The conditions -/

/-- R195. -/
theorem condEqual_iff (a b : Word) : condEqual a b = true ↔ ∀ k < 32, a.getLsbD k = b.getLsbD k := by
  rw [condEqual, beq_iff_eq]
  exact ⟨fun h k _ => h ▸ rfl, BitVec.eq_of_getLsbD_eq⟩

/-- R194, R199, under either setting of `BR_CMP_SIGNED`. -/
theorem condLess_iff (cmpSigned : Bool) (a b : Word) :
    condLess cmpSigned a b = true ↔ if cmpSigned = true then a.toInt < b.toInt else a.toNat < b.toNat := by
  cases cmpSigned with
  | true => exact BitVec.slt_iff_toInt_lt
  | false => exact BitVec.ult_iff_toNat_lt

/-- R193, R199, under either setting of `BR_CMP_SIGNED`. -/
theorem condGreater_iff (cmpSigned : Bool) (a b : Word) :
    condGreater cmpSigned a b = true ↔ if cmpSigned = true then a.toInt > b.toInt else a.toNat > b.toNat :=
  condLess_iff cmpSigned b a

/-! ### Instructions -/

theorem exec_br (o : BitVec 14) (s : State) : exec (.br o) s = s.branch [] true o := rfl

theorem exec_breq (a b : Reg) (o : BitVec 14) (s : State) :
    exec (.breq a b o) s = s.branch [a, b] (condEqual (s.x a) (s.x b)) o := rfl

theorem exec_brgt (a b : Reg) (o : BitVec 14) (s : State) :
    exec (.brgt a b o) s = s.branch [a, b] (condGreater s.cfg.brCmpSigned (s.x a) (s.x b)) o := rfl

theorem exec_brlt (a b : Reg) (o : BitVec 14) (s : State) :
    exec (.brlt a b o) s = s.branch [a, b] (condLess s.cfg.brCmpSigned (s.x a) (s.x b)) o := rfl

theorem exec_brchar (o : BitVec 14) (s : State) : exec (.brchar o) s = s.branch [] s.kbdReady o := rfl

theorem exec_brvid (o : BitVec 14) (s : State) : exec (.brvid o) s = s.branch [] s.vidReady o := rfl

theorem exec_brpix (o : BitVec 14) (s : State) : exec (.brpix o) s = s.branch [] s.pixReady o := rfl

/-- A branch answers a next state, under whatever condition its Boolean stands for. -/
theorem exists_next_of_branch {s : State} {i : Instr} {srcs : List Reg} {taken : Bool} {cond : Prop} {o : BitVec 14}
    (hexec : exec i s = s.branch srcs taken o) (hcond : taken = true ↔ cond) :
    ∃ t, exec i s = .next t ∧ BranchResult s t srcs cond o := by
  obtain ⟨t, ht, hres⟩ := s.branch_spec srcs taken o
  exact ⟨t, hexec.trans ht, propext hcond ▸ hres⟩

/-! ### The statements -/

/-- Settles O49: `op` and `mode` select the row, whose other fields are the operands; two words are equal when all their
bits are. -/
theorem branchAlwaysAndBranchEqual : Obligations.BranchAlwaysAndBranchEqual := by
  refine ⟨fun w hop => ⟨fun hmode => ?_, fun hmode => ?_⟩, fun a b o s => ⟨?_, ?_⟩⟩
  · exact decodeWord_of_fieldsIn rfl ⟨hop, hmode, rfl⟩
  · exact decodeWord_of_fieldsIn rfl ⟨hop, hmode, (field_regOfField _).symm, (field_regOfField _).symm, rfl⟩
  · exact exists_next_of_branch (exec_br o s) (iff_true_intro rfl)
  · exact exists_next_of_branch (exec_breq a b o s) (condEqual_iff _ _)

/-- Settles O50: the fields of format B are the operands, and the two conditions are the comparisons of integers. -/
theorem branchGreaterAndBranchLess : Obligations.BranchGreaterAndBranchLess := by
  refine ⟨fun o a b => ⟨?_, ?_⟩, fun a b o s => ⟨?_, ?_⟩⟩
  · exact decodeWord_of_fieldsIn rfl (by simp [Instr.FieldsIn])
  · exact decodeWord_of_fieldsIn rfl (by simp [Instr.FieldsIn])
  · exact exists_next_of_branch (exec_brgt a b o s) (condGreater_iff ..)
  · exact exists_next_of_branch (exec_brlt a b o s) (condLess_iff ..)

/-- Settles O51: `op` and `mode` select the row, whose other field is the offset; each condition is a readiness. -/
theorem deviceBranchesTestReadiness : Obligations.DeviceBranchesTestReadiness := by
  refine ⟨fun w hop => ⟨fun hmode => ?_, fun hmode => ?_, fun hmode => ?_⟩, fun o s => ⟨?_, ?_, ?_⟩⟩
  · exact decodeWord_of_fieldsIn rfl ⟨hop, hmode, rfl⟩
  · exact decodeWord_of_fieldsIn rfl ⟨hop, hmode, rfl⟩
  · exact decodeWord_of_fieldsIn rfl ⟨hop, hmode, rfl⟩
  · exact exists_next_of_branch (exec_brchar o s) Iff.rfl
  · exact exists_next_of_branch (exec_brvid o s) Iff.rfl
  · exact exists_next_of_branch (exec_brpix o s) Iff.rfl

end Sys2Proof.Machine
end

section
/-!
The environment at an instruction boundary (60_exceptions.md R216 to R227): what a list of device steps does to the
state, whichever they are and in whichever order.
-/

namespace Sys2Proof.Machine

/-! ### One device step -/

/-- A device step touches four fields only. -/
theorem State.deliver_eq (s : State) (e : DeviceEvent) :
    s.deliver e =
      { s with
        kbdReady := (s.deliver e).kbdReady
        kbdChar := (s.deliver e).kbdChar
        vidReady := (s.deliver e).vidReady
        pixReady := (s.deliver e).pixReady } := by
  cases e <;> rfl

theorem State.deliver_vidReady_iff (s : State) (e : DeviceEvent) :
    (s.deliver e).vidReady = true ↔ s.vidReady = true ∨ e = .videoDrained := by
  cases e <;> simp

theorem State.deliver_pixReady_iff (s : State) (e : DeviceEvent) :
    (s.deliver e).pixReady = true ↔ s.pixReady = true ∨ e = .pixelsDrained := by
  cases e <;> simp

/-- R217: only a key press changes the keyboard. -/
theorem State.deliver_sameKeyboard (s : State) {e : DeviceEvent} (h : ∀ k z, e ≠ .keyPressed k z) :
    (s.deliver e).kbdReady = s.kbdReady ∧ (s.deliver e).kbdChar = s.kbdChar := by
  cases e with
  | keyPressed k z => exact absurd rfl (h k z)
  | videoDrained | pixelsDrained => exact ⟨rfl, rfl⟩

/-! ### The device steps of a boundary -/

/-- The four fields that one device step touches are the four that a list of them touches. -/
theorem State.deliver_all_eq (es : List DeviceEvent) (s : State) :
    es.foldl State.deliver s =
      { s with
        kbdReady := (es.foldl State.deliver s).kbdReady
        kbdChar := (es.foldl State.deliver s).kbdChar
        vidReady := (es.foldl State.deliver s).vidReady
        pixReady := (es.foldl State.deliver s).pixReady } := by
  induction es generalizing s with
  | nil => rfl
  | cons e es ih =>
    rw [List.foldl_cons]
    refine (ih (s.deliver e)).trans ?_
    generalize es.foldl State.deliver (s.deliver e) = u
    rw [s.deliver_eq e]

/-- A readiness that one kind of device step raises and no other changes holds after a list of device steps if it held
or if one of that kind is in the list; the order does not matter, since nothing clears it (D18). -/
theorem State.deliver_all_ready_iff {ready : State → Bool} {raising : DeviceEvent}
    (hstep : ∀ s e, ready (State.deliver s e) = true ↔ ready s = true ∨ e = raising) (es : List DeviceEvent)
    (s : State) : ready (es.foldl State.deliver s) = true ↔ ready s = true ∨ raising ∈ es := by
  induction es generalizing s with
  | nil => simp
  | cons e es ih => rw [List.foldl_cons, ih, hstep, List.mem_cons, or_assoc, eq_comm (a := e)]

theorem State.boundary_of_cons {s : State} {now : List DeviceEvent} {later : List (List DeviceEvent)}
    (h : s.events = now :: later) : s.boundary = now.foldl State.deliver { s with events := later } := by
  simp [State.boundary, h]

theorem State.boundary_of_nil {s : State} (h : s.events = []) : s.boundary = s := by
  simp [State.boundary, h]

/-- R217, at a boundary whose one event is a key press. -/
theorem State.boundary_of_key {s : State} {k : Key} {z : Bool} {later : List (List DeviceEvent)}
    (h : s.events = [.keyPressed k z] :: later) :
    s.boundary =
      { s with
        events := later
        kbdChar := keyCode k
        kbdReady := if keyCode k = 0 then s.kbdReady || z else true } :=
  State.boundary_of_cons h

/-! ### The statements -/

/-- Settles O54: each channel has one kind of device step that raises its readiness, and all the fields that no device
step touches are those from before the boundary. -/
theorem channelsBecomeReady : Obligations.ChannelsBecomeReady := by
  refine ⟨fun s now later h => ?_, fun s h => State.boundary_of_nil h⟩
  rw [State.boundary_of_cons h]
  exact ⟨State.deliver_all_ready_iff State.deliver_vidReady_iff now _,
    State.deliver_all_ready_iff State.deliver_pixReady_iff now _, State.deliver_all_eq now _⟩

/-- Settles O23: the boundary by `State.boundary_of_key`, the other device steps by their cases, and the instructions by
their frame, in which a read of register 29 at most clears `KBD_READY`. -/
theorem keyPress : Obligations.KeyPress := by
  refine ⟨fun s k z later h => ?_, fun s e he => s.deliver_sameKeyboard he, fun i s t h => ?_⟩
  · rw [State.boundary_of_key h]
    exact ⟨rfl, fun hcode => if_neg hcode, fun hcode => if_pos hcode, rfl⟩
  · obtain ⟨hchar, hready⟩ := (exec_effect h).keyboardAfter
    refine ⟨hchar, fun ht => ?_⟩
    rw [hready] at ht
    split at ht
    · cases ht
    · exact ht

/-- Settles O24: the table of `keyCode`. -/
theorem keyCodes : Obligations.KeyCodes :=
  ⟨fun _ => rfl, rfl, rfl, rfl, rfl, rfl, rfl, rfl⟩

end Sys2Proof.Machine
end

section
/-!
The devices over one instruction (60_exceptions.md R218 to R225): the frame of all instructions, a character written to
register 29, and a key read from it.
-/

namespace Sys2Proof.Machine

/-! ### A character written -/

/-- R221: a ready channel accepts bits 7:0. -/
theorem State.charOut_setX_port {s : State} (v : Word) (h : s.vidReady = true) :
    (s.setX .port v).charOut = s.charOut ++ [v.extractLsb' 0 8] := by
  have hchars := s.setX_chars .port v
  rwa [if_pos ⟨rfl, h⟩] at hchars

/-- R221: any other channel ignores the request. -/
theorem State.setX_port_of_not_ready {s : State} (v : Word) (h : s.vidReady = false) : s.setX .port v = s := by
  rw [State.setX_port, State.charWrite, if_neg (by simp [h])]

/-! ### A key read -/

/-- The mask 0xFF keeps bits 7:0. -/
theorem and_mask8 (v : Word) : v &&& 0xFF = (v.extractLsb' 0 8).zeroExtend 32 := by
  apply BitVec.eq_of_toNat_eq
  rw [BitVec.toNat_and, BitVec.toNat_setWidth_of_le (by decide), toNat_extract, pow_zero, Nat.div_one]
  exact Nat.and_two_pow_sub_one_eq_mod v.toNat 8

/-- R219, D15: under the mask the free bits of a read of register 29 do not show, and the read has consumed the key. -/
theorem exec_and_masked_key {s : State} {d m : Reg} (hready : s.kbdReady = true) (hmask : s.x m = 0xFF)
    (hz : d ≠ .zero) (hp : d ≠ .port) :
    ∃ t, exec (.and d .port m) s = .next t ∧ t.x d = s.kbdChar.zeroExtend 32 ∧ t.kbdReady = false := by
  obtain ⟨t, ht, hres⟩ := s.result_spec [.port, m] d (s.x .port &&& s.x m)
  obtain ⟨hdest, -⟩ := hres.dest
  obtain ⟨-, hkbd⟩ := hres.keyboard
  have hkey : s.x .port &&& s.x m = s.kbdChar.zeroExtend 32 := by
    rw [hmask, and_mask8, State.x_port, s.kbdValue_low8 hready]
  exact ⟨t, (exec_and d .port m s).trans ht, (hdest hz hp).trans hkey, hkbd.trans (if_pos List.mem_cons_self)⟩

/-! ### The statements -/

/-- Settles O10: the frames of the seven effects. -/
theorem onlyNamedDevicesChange : Obligations.OnlyNamedDevicesChange := by
  intro i s t h
  have heffect := exec_effect h
  exact ⟨heffect.keyboardAfter, heffect.sameCharChannel, heffect.samePixelChannel, heffect.sameRun⟩

/-- Settles O22: the two cases of the request by their lemmas, and the rest by the frame of a register write. -/
theorem characterWrite : Obligations.CharacterWrite := by
  intro s v
  obtain ⟨hpc, hmem, hready, hchar, hpixReady, hpixOut, -⟩ := s.setX_other .port v
  exact ⟨State.charOut_setX_port v, State.setX_port_of_not_ready v, fun r hr _ => s.x_setX_of_ne .port r v hr hr,
    State.readCell_congr hmem, ⟨hchar, hready⟩, ⟨hpixOut, hpixReady⟩, hpc⟩

/-- Settles O26: the masked read of the waiting key. -/
theorem maskedKeyboardReadIsTheKey : Obligations.MaskedKeyboardReadIsTheKey :=
  fun _ _ _ hready _ hmask hz hp => exec_and_masked_key hready hmask hz hp

end Sys2Proof.Machine
end

section
/-!
The devices over steps and runs (60_exceptions.md R222 to R229, 70_reset_and_hazards.md R258): a channel that is ready
stays ready until the program uses it, its output only grows, and so the polling idioms of R200 work.
-/

namespace Sys2Proof.Machine

/-! ### What a boundary keeps -/

@[simp] theorem State.boundary_charOut (s : State) : s.boundary.charOut = s.charOut := by
  obtain ⟨-, -, -, hout, -⟩ := s.boundary_frame
  exact hout

@[simp] theorem State.boundary_pixOut (s : State) : s.boundary.pixOut = s.pixOut := by
  obtain ⟨-, -, -, -, hout, -⟩ := s.boundary_frame
  exact hout

theorem State.x_boundary (s : State) {r : Reg} (hr : r ≠ .port) : s.boundary.x r = s.x r := by
  obtain ⟨hx, -⟩ := s.boundary_frame
  exact hx r hr

/-- D18: no device clears a readiness. -/
theorem State.boundary_keeps_ready (s : State) :
    (s.kbdReady = true → s.boundary.kbdReady = true) ∧ (s.vidReady = true → s.boundary.vidReady = true) ∧
    (s.pixReady = true → s.boundary.pixReady = true) := by
  obtain ⟨-, -, -, -, -, -, -, hready⟩ := s.boundary_frame
  exact hready

/-! ### What an instruction does to a channel -/

theorem State.setX_char_cases (s : State) (d : Reg) (v : Word) :
    SameCharChannel s (s.setX d v) ∨ ∃ c, (s.setX d v).charOut = s.charOut ++ [c] := by
  have hchars := s.setX_chars d v
  split at hchars
  · exact .inr ⟨_, hchars⟩
  · exact .inl hchars

/-- Every instruction leaves the character channel alone or sends it one character. -/
theorem ExecEffect.char_cases {s t : State} {i : Instr} (h : ExecEffect s i t) :
    SameCharChannel s t ∨ ∃ c, t.charOut = s.charOut ++ [c] := by
  cases h with
  | @register _ d v => simpa [SameCharChannel] using (s.afterReads (sourceRegs i)).setX_char_cases d v
  | @pop d v => simpa [SameCharChannel] using (s.setX .sp (s.sp + 1)).setX_char_cases d v
  | jump | jal | sw | svga | push => simp [SameCharChannel]

/-- Every instruction leaves the pixel channel alone or sends it one word. -/
theorem ExecEffect.pixel_cases {s t : State} {i : Instr} (h : ExecEffect s i t) :
    SamePixelChannel s t ∨ ∃ w, t.pixOut = s.pixOut ++ [w] := by
  cases h with
  | @svga b => exact .inr ⟨s.x b, by simp⟩
  | register | jump | jal | sw | push | pop => exact .inl (by simp [SamePixelChannel])

/-! ### What a step does to a channel -/

/-- R222, R229: a step that sends no character keeps the output, and the readiness if it held. -/
theorem step_char_cases {s t : State} (h : step s = .next t) :
    (t.charOut = s.charOut ∧ (s.vidReady = true → t.vidReady = true)) ∨ ∃ c, t.charOut = s.charOut ++ [c] := by
  rcases step_next h with ⟨-, rfl⟩ | ⟨-, i, -, hexec⟩
  · exact .inl ⟨rfl, id⟩
  · obtain ⟨-, hkeep, -⟩ := s.boundary_keeps_ready
    rcases (exec_effect hexec).char_cases with ⟨hout, hready⟩ | ⟨c, hout⟩
    · exact .inl ⟨hout.trans s.boundary_charOut, fun hs => hready.trans (hkeep hs)⟩
    · exact .inr ⟨c, by rw [hout, s.boundary_charOut]⟩

/-- R226, R229: a step that sends no pixel word keeps the output, and the readiness if it held. -/
theorem step_pixel_cases {s t : State} (h : step s = .next t) :
    (t.pixOut = s.pixOut ∧ (s.pixReady = true → t.pixReady = true)) ∨ ∃ w, t.pixOut = s.pixOut ++ [w] := by
  rcases step_next h with ⟨-, rfl⟩ | ⟨-, i, -, hexec⟩
  · exact .inl ⟨rfl, id⟩
  · obtain ⟨-, -, hkeep⟩ := s.boundary_keeps_ready
    rcases (exec_effect hexec).pixel_cases with ⟨hout, hready⟩ | ⟨w, hout⟩
    · exact .inl ⟨hout.trans s.boundary_pixOut, fun hs => hready.trans (hkeep hs)⟩
    · exact .inr ⟨w, by rw [hout, s.boundary_pixOut]⟩

/-- R219, R229: a key that waits still waits after a step, unless the instruction reads register 29. -/
theorem step_keeps_key {s t : State} (h : step s = .next t) (hs : s.kbdReady = true) :
    t.kbdReady = true ∨ ∃ i, s.boundary.fetch = .ok i ∧ .port ∈ sourceRegs i := by
  rcases step_next h with ⟨-, rfl⟩ | ⟨-, i, hfetch, hexec⟩
  · exact .inl hs
  · obtain ⟨hkeep, -⟩ := s.boundary_keeps_ready
    obtain ⟨-, hready⟩ := (exec_effect hexec).keyboardAfter
    by_cases hread : .port ∈ sourceRegs i
    · exact .inr ⟨i, hfetch, hread⟩
    · exact .inl ((hready.trans (if_neg hread)).trans (hkeep hs))

/-! ### Output along a run -/

/-- A sequence to which each step appends at most one entry has grown by at most `k` entries after `k` steps. -/
theorem run_appends {M : Host.Core} {α : Type} {out : M.State → List α}
    (hstep : ∀ s t, M.step s = .next t → ∃ xs, xs.length ≤ 1 ∧ out t = out s ++ xs) {k : Nat} {s t : M.State}
    (h : M.run k s = .next t) : ∃ xs, xs.length ≤ k ∧ out t = out s ++ xs := by
  induction k generalizing s with
  | zero =>
    cases h
    exact ⟨[], Nat.le_refl 0, (List.append_nil _).symm⟩
  | succ k ih =>
    obtain ⟨u, hfirst, hrest⟩ := run_succ_next h
    obtain ⟨xs, hxs, hout⟩ := hstep s u hfirst
    obtain ⟨ys, hys, hout'⟩ := ih hrest
    refine ⟨xs ++ ys, ?_, by rw [hout', hout, List.append_assoc]⟩
    rw [List.length_append]
    omega

theorem step_appends_char {s t : State} (h : step s = .next t) :
    ∃ cs : List Byte, cs.length ≤ 1 ∧ t.charOut = s.charOut ++ cs := by
  rcases step_char_cases h with ⟨hout, -⟩ | ⟨c, hout⟩
  · exact ⟨[], by simp, by simpa using hout⟩
  · exact ⟨[c], by simp, hout⟩

theorem step_appends_pixel {s t : State} (h : step s = .next t) :
    ∃ ps : List Word, ps.length ≤ 1 ∧ t.pixOut = s.pixOut ++ ps := by
  rcases step_pixel_cases h with ⟨hout, -⟩ | ⟨w, hout⟩
  · exact ⟨[], by simp, by simpa using hout⟩
  · exact ⟨[w], by simp, hout⟩

/-! ### Polling -/

/-- A polling branch uses no channel, and between it and the next instruction no device clears a readiness (D18): what
the branch found ready is ready at the next instruction, and the outputs are those from before the branch. -/
theorem ready_after_poll {s t : State} {i : Instr} {o : BitVec 14} (hs : s.ended = false) (h : step s = .next t)
    (hfetch : s.boundary.fetch = .ok i) (hi : i ∈ [.brchar o, .brvid o, .brpix o]) :
    (s.boundary.kbdReady = true → t.boundary.kbdReady = true) ∧
    (s.boundary.vidReady = true → t.boundary.vidReady = true) ∧
    (s.boundary.pixReady = true → t.boundary.pixReady = true) ∧
    t.boundary.charOut = s.charOut ∧ t.boundary.pixOut = s.pixOut := by
  have hexec : exec i s.boundary = .next t := (step_of_fetch_ok hs (s.fetch_boundary ▸ hfetch)).symm.trans h
  have hsame : OnlyPcMoves s.boundary t [] t.pc := by
    simp only [List.mem_cons, List.not_mem_nil, or_false] at hi
    rcases hi with rfl | rfl | rfl
    all_goals
      cases hexec
      exact s.boundary.onlyPcMoves [] _
  obtain ⟨-, hkbd⟩ := hsame.keyboard
  obtain ⟨hcharOut, hvid⟩ := hsame.chars
  obtain ⟨hpixOut, hpix⟩ := hsame.pixels
  obtain ⟨hkeepKbd, hkeepVid, hkeepPix⟩ := t.boundary_keeps_ready
  exact ⟨fun hr => hkeepKbd (hkbd.trans hr), fun hr => hkeepVid (hvid.trans hr), fun hr => hkeepPix (hpix.trans hr),
    by simp [hcharOut], by simp [hpixOut]⟩

/-- R121, R221: a sum written to register 29 while the channel is ready. -/
theorem exec_add_port_of_ready {s : State} (a b : Reg) (h : s.vidReady = true) :
    ∃ t, exec (.add .port a b) s = .next t ∧ t.charOut = s.charOut ++ [(s.x a + s.x b).extractLsb' 0 8] := by
  obtain ⟨t, ht, hres⟩ := s.result_spec [a, b] .port (s.x a + s.x b)
  obtain ⟨-, hchars⟩ := hres.dest
  rw [if_pos ⟨rfl, h⟩] at hchars
  exact ⟨t, (exec_add .port a b s).trans ht, hchars⟩

/-! ### The statements -/

/-- Settles O27: a step that does not use a channel keeps it ready. -/
theorem readinessPersists : Obligations.ReadinessPersists := by
  refine fun s t h => ⟨fun hready => ?_, fun hready => ?_, step_keeps_key h⟩
  · exact (step_char_cases h).imp_left fun ⟨_, hkeep⟩ => hkeep hready
  · exact (step_pixel_cases h).imp_left fun ⟨_, hkeep⟩ => hkeep hready

/-- Settles O28: by induction on the steps of the run, once for both outputs. -/
theorem outputOnlyAppends : Obligations.OutputOnlyAppends :=
  fun _ _ _ h => ⟨run_appends (M := core) (out := State.charOut) (fun _ _ => step_appends_char) h,
    run_appends (M := core) (out := State.pixOut) (fun _ _ => step_appends_pixel) h⟩

/-- Settles O29: the channel is ready at the second instruction's boundary, where that instruction has its effect. -/
theorem pollThenUseIsSound : Obligations.PollThenUseIsSound := by
  intro s t o hs h ht
  refine ⟨fun b hpoll hready huse => ?_, fun a b hpoll hready huse => ?_,
    fun d m hpoll hready huse hm hmask hz hp => ?_⟩
  · obtain ⟨-, -, hkeep, -, hout⟩ := ready_after_poll (o := o) hs h hpoll (by simp)
    rw [step_of_fetch_ok ht (t.fetch_boundary ▸ huse), ← hout]
    exact exec_svga_of_ready b (hkeep hready)
  · obtain ⟨-, hkeep, -, hout, -⟩ := ready_after_poll (o := o) hs h hpoll (by simp)
    rw [step_of_fetch_ok ht (t.fetch_boundary ▸ huse), ← hout]
    exact exec_add_port_of_ready a b (hkeep hready)
  · obtain ⟨hkeep, -⟩ := ready_after_poll (o := o) hs h hpoll (by simp)
    rw [step_of_fetch_ok ht (t.fetch_boundary ▸ huse)]
    exact exec_and_masked_key (hkeep hready) ((t.x_boundary hm).trans hmask) hz hp

/-- R258: the end of a run is tested against the stop address, if there is one. -/
theorem State.ended_iff (s : State) : s.ended = true ↔ s.cfg.stopAddr = some s.pc := by
  rw [State.ended, beq_iff_eq]

/-- Settles O7: the test for the end of a run comes before the device steps and the fetch (log 7). -/
theorem runEndsAtStopAddress : Obligations.RunEndsAtStopAddress :=
  fun s h => if_pos (s.ended_iff.2 h)

end Sys2Proof.Machine
end
